-- ==== Sys2Proof/Word.lean ====
section
/-! DEFINITION. The widths the spec gives its values (R7, R82): bytes, 16-bit words, and the 4- and 12-bit
fields of an opcode. All values are unsigned (R9). -/

namespace Sys2Proof

/-- An 8-bit value: a general register, a timer, a byte of memory, the field NN. -/
abbrev Byte := BitVec 8

/-- A 16-bit value: I, PC, a stack entry, an opcode. -/
abbrev Word := BitVec 16

/-- A 4-bit field: a register index X or Y, the count N, the opcode class, a key code. -/
abbrev Nibble := BitVec 4

/-- The 12-bit address field NNN. -/
abbrev Addr12 := BitVec 12

end Sys2Proof
end

