-- ==== Sys2Proof/Machine/Flags.lean ====
section
/-! DEFINITION. Every flag value an instruction writes to VF (R38): carry, NOT borrow, the shifted-out bits, the range flag
of FX1E; the collision flag is the second result of the sprite drawing (Machine/Display.lean). -/

namespace Sys2Proof.Machine

/-- A condition as the byte written to VF: 1 for true, 0 for false (R10). -/
def flagByte (c : Bool) : Byte := if c then 1 else 0

/-- 8XY4: the sum of two bytes exceeds 255 (R176). -/
def carryOut (a b : Byte) : Bool := decide (255 < a.toNat + b.toNat)

/-- 8XY5, 8XY7: `a - b` needs no borrow, equality included (R177, R179). -/
def notBorrow (a b : Byte) : Bool := decide (b.toNat ≤ a.toNat)

/-- 8XY6: the bit a right shift moves out, a[0] (R178). -/
def shiftedOutRight (a : Byte) : Bool := a.getLsbD 0

/-- 8XYE: the bit a left shift moves out, a[7] (R180). -/
def shiftedOutLeft (a : Byte) : Bool := a.getLsbD 7

/-- FX1E: the new I lies above 0xFFF (R201). -/
def indexAboveMemory (i : Word) : Bool := decide (0xFFF < i.toNat)

end Sys2Proof.Machine
end

