-- ==== Sys2Proof/Syntax.lean ====
section
/-! DEFINITION. The 34 instructions (R88), one constructor per row of spec/opcode_table.json, in the table's order.
Every operand has exactly the width of its field (R82, R83), and every value of a field is legal (R94). -/

namespace Sys2Proof

/-- The instruction set of R88. `x`, `y` are register indices, `n` a row count, `nn` an immediate, `nnn` an address. -/
inductive Instr where
  /-- 00E0 `CLS` (R120). -/
  | cls
  /-- 00EE `RET` (R140). -/
  | ret
  /-- 1NNN `JP nnn` (R141). -/
  | jp (nnn : Addr12)
  /-- 2NNN `CALL nnn` (R142). -/
  | call (nnn : Addr12)
  /-- 3XNN `SE Vx, nn` (R143). -/
  | seImm (x : Nibble) (nn : Byte)
  /-- 4XNN `SNE Vx, nn` (R144). -/
  | sneImm (x : Nibble) (nn : Byte)
  /-- 5XY0 `SE Vx, Vy` (R145). -/
  | seReg (x y : Nibble)
  /-- 6XNN `LD Vx, nn` (R170). -/
  | ldImm (x : Nibble) (nn : Byte)
  /-- 7XNN `ADD Vx, nn` (R171). -/
  | addImm (x : Nibble) (nn : Byte)
  /-- 8XY0 `LD Vx, Vy` (R172). -/
  | ldReg (x y : Nibble)
  /-- 8XY1 `OR Vx, Vy` (R173). -/
  | orReg (x y : Nibble)
  /-- 8XY2 `AND Vx, Vy` (R174). -/
  | andReg (x y : Nibble)
  /-- 8XY3 `XOR Vx, Vy` (R175). -/
  | xorReg (x y : Nibble)
  /-- 8XY4 `ADD Vx, Vy` (R176). -/
  | addReg (x y : Nibble)
  /-- 8XY5 `SUB Vx, Vy` (R177). -/
  | subReg (x y : Nibble)
  /-- 8XY6 `SHR Vx {, Vy}` (R178). The field Y is ignored (R96); it is kept so that no bit of the word is lost. -/
  | shr (x y : Nibble)
  /-- 8XY7 `SUBN Vx, Vy` (R179). -/
  | subn (x y : Nibble)
  /-- 8XYE `SHL Vx {, Vy}` (R180). The field Y is ignored (R96); it is kept so that no bit of the word is lost. -/
  | shl (x y : Nibble)
  /-- 9XY0 `SNE Vx, Vy` (R146). -/
  | sneReg (x y : Nibble)
  /-- ANNN `LD I, nnn` (R200). -/
  | ldI (nnn : Addr12)
  /-- BNNN `JP V0, nnn` (R147). -/
  | jpV0 (nnn : Addr12)
  /-- CXNN `RND Vx, nn` (R181). -/
  | rnd (x : Nibble) (nn : Byte)
  /-- DXYN `DRW Vx, Vy, n` (R121). -/
  | drw (x y n : Nibble)
  /-- EX9E `SKP Vx` (R230). -/
  | skp (x : Nibble)
  /-- EXA1 `SKNP Vx` (R231). -/
  | sknp (x : Nibble)
  /-- FX07 `LD Vx, DT` (R250). -/
  | ldVxDt (x : Nibble)
  /-- FX0A `LD Vx, K` (R232). -/
  | ldVxK (x : Nibble)
  /-- FX15 `LD DT, Vx` (R251). -/
  | ldDtVx (x : Nibble)
  /-- FX18 `LD ST, Vx` (R252). -/
  | ldStVx (x : Nibble)
  /-- FX1E `ADD I, Vx` (R201). -/
  | addI (x : Nibble)
  /-- FX29 `LD F, Vx` (R202). -/
  | ldF (x : Nibble)
  /-- FX33 `LD B, Vx` (R203). -/
  | ldB (x : Nibble)
  /-- FX55 `LD [I], Vx` (R204). -/
  | storeRegs (x : Nibble)
  /-- FX65 `LD Vx, [I]` (R205). -/
  | loadRegs (x : Nibble)
  deriving DecidableEq, Repr

end Sys2Proof
end

