-- ==== Sys2Proof/WellFormed.lean ====
section
/-! DEFINITION. Which 16-bit words are instructions, read off the opcode table of R88 by mask and match, apart from the
decoder. The operands of `Instr` have exactly the widths of their fields and every value of them is legal (R94), so
there is no ill-formed term of `Instr`: what can be ill-formed is a word (R89 to R93). -/

namespace Sys2Proof

/-- One row of the opcode table (R88): `(op & mask) == value` decodes it. -/
structure OpcodeRow where
  mnemonic : String
  pattern : String
  mask : Word
  value : Word
  deriving DecidableEq, Repr

/-- Rows 1–7 of R88. -/
def opcodeRowsFlow : List OpcodeRow :=
  [⟨"CLS", "00E0", 0xFFFF, 0x00E0⟩,
   ⟨"RET", "00EE", 0xFFFF, 0x00EE⟩,
   ⟨"JP_nnn", "1NNN", 0xF000, 0x1000⟩,
   ⟨"CALL_nnn", "2NNN", 0xF000, 0x2000⟩,
   ⟨"SE_Vx__nn", "3XNN", 0xF000, 0x3000⟩,
   ⟨"SNE_Vx__nn", "4XNN", 0xF000, 0x4000⟩,
   ⟨"SE_Vx__Vy", "5XY0", 0xF00F, 0x5000⟩]

/-- Rows 8–19 of R88. -/
def opcodeRowsAlu : List OpcodeRow :=
  [⟨"LD_Vx__nn", "6XNN", 0xF000, 0x6000⟩,
   ⟨"ADD_Vx__nn", "7XNN", 0xF000, 0x7000⟩,
   ⟨"LD_Vx__Vy", "8XY0", 0xF00F, 0x8000⟩,
   ⟨"OR_Vx__Vy", "8XY1", 0xF00F, 0x8001⟩,
   ⟨"AND_Vx__Vy", "8XY2", 0xF00F, 0x8002⟩,
   ⟨"XOR_Vx__Vy", "8XY3", 0xF00F, 0x8003⟩,
   ⟨"ADD_Vx__Vy", "8XY4", 0xF00F, 0x8004⟩,
   ⟨"SUB_Vx__Vy", "8XY5", 0xF00F, 0x8005⟩,
   ⟨"SHR_Vx____Vy", "8XY6", 0xF00F, 0x8006⟩,
   ⟨"SUBN_Vx__Vy", "8XY7", 0xF00F, 0x8007⟩,
   ⟨"SHL_Vx____Vy", "8XYE", 0xF00F, 0x800E⟩,
   ⟨"SNE_Vx__Vy", "9XY0", 0xF00F, 0x9000⟩]

/-- Rows 20–23 of R88. -/
def opcodeRowsImm : List OpcodeRow :=
  [⟨"LD_I__nnn", "ANNN", 0xF000, 0xA000⟩,
   ⟨"JP_V0__nnn", "BNNN", 0xF000, 0xB000⟩,
   ⟨"RND_Vx__nn", "CXNN", 0xF000, 0xC000⟩,
   ⟨"DRW_Vx__Vy__n", "DXYN", 0xF000, 0xD000⟩]

/-- Rows 24–34 of R88. -/
def opcodeRowsSel : List OpcodeRow :=
  [⟨"SKP_Vx", "EX9E", 0xF0FF, 0xE09E⟩,
   ⟨"SKNP_Vx", "EXA1", 0xF0FF, 0xE0A1⟩,
   ⟨"LD_Vx__DT", "FX07", 0xF0FF, 0xF007⟩,
   ⟨"LD_Vx__K", "FX0A", 0xF0FF, 0xF00A⟩,
   ⟨"LD_DT__Vx", "FX15", 0xF0FF, 0xF015⟩,
   ⟨"LD_ST__Vx", "FX18", 0xF0FF, 0xF018⟩,
   ⟨"ADD_I__Vx", "FX1E", 0xF0FF, 0xF01E⟩,
   ⟨"LD_F__Vx", "FX29", 0xF0FF, 0xF029⟩,
   ⟨"LD_B__Vx", "FX33", 0xF0FF, 0xF033⟩,
   ⟨"LD__I___Vx", "FX55", 0xF0FF, 0xF055⟩,
   ⟨"LD_Vx___I", "FX65", 0xF0FF, 0xF065⟩]

/-- The 34 rows of R88, in its order. -/
def opcodeTable : List OpcodeRow :=
  opcodeRowsFlow ++ opcodeRowsAlu ++ opcodeRowsImm ++ opcodeRowsSel

/-- The test of R88: `(op & mask) == value`. -/
def OpcodeRow.covers (r : OpcodeRow) (op : Word) : Bool :=
  op &&& r.mask == r.value

/-- A word is an instruction when some row of the table covers it (R88); every other word is an invalid opcode (R95). -/
def wellFormedWord (op : Word) : Bool :=
  opcodeTable.any fun r => r.covers op

/-- The row of R88 an instruction belongs to, by its position in the table. -/
def Instr.rowNumber : Instr → Fin 34
  | .cls => 0
  | .ret => 1
  | .jp _ => 2
  | .call _ => 3
  | .seImm _ _ => 4
  | .sneImm _ _ => 5
  | .seReg _ _ => 6
  | .ldImm _ _ => 7
  | .addImm _ _ => 8
  | .ldReg _ _ => 9
  | .orReg _ _ => 10
  | .andReg _ _ => 11
  | .xorReg _ _ => 12
  | .addReg _ _ => 13
  | .subReg _ _ => 14
  | .shr _ _ => 15
  | .subn _ _ => 16
  | .shl _ _ => 17
  | .sneReg _ _ => 18
  | .ldI _ => 19
  | .jpV0 _ => 20
  | .rnd _ _ => 21
  | .drw _ _ _ => 22
  | .skp _ => 23
  | .sknp _ => 24
  | .ldVxDt _ => 25
  | .ldVxK _ => 26
  | .ldDtVx _ => 27
  | .ldStVx _ => 28
  | .addI _ => 29
  | .ldF _ => 30
  | .ldB _ => 31
  | .storeRegs _ => 32
  | .loadRegs _ => 33

/-- The row of R88 an instruction belongs to. -/
def Instr.row (i : Instr) : OpcodeRow :=
  opcodeTable[i.rowNumber]

end Sys2Proof
end

