-- ==== Sys2Proof/Decode.lean ====
section
/-! DEFINITION. Fields (R82), the two-level decoder (R85, R88 to R95), and after it the encoder, written from the same
layouts (R87). Byte order of a word in memory: the byte at the lower address is bits 15–8 (R56). -/

namespace Sys2Proof

/-! ## Fields of an opcode (R82) -/

/-- The opcode class, op[15:12] (R82). -/
def fieldClass (op : Word) : Nibble := op.extractLsb' 12 4

/-- X, op[11:8] (R82). -/
def fieldX (op : Word) : Nibble := op.extractLsb' 8 4

/-- Y, op[7:4] (R82). -/
def fieldY (op : Word) : Nibble := op.extractLsb' 4 4

/-- N, op[3:0] (R82). -/
def fieldN (op : Word) : Nibble := op.extractLsb' 0 4

/-- NN, op[7:0] (R82). -/
def fieldNN (op : Word) : Byte := op.extractLsb' 0 8

/-- NNN, op[11:0] (R82). -/
def fieldNNN (op : Word) : Addr12 := op.extractLsb' 0 12

/-- Two bytes as a word: the first one, at the lower address, is the high byte (R56, R81). -/
def joinBytes (hi lo : Byte) : Word := hi ++ lo

/-- op[15:8], the byte stored at the lower address (R56). -/
def highByte (op : Word) : Byte := op.extractLsb' 8 8

/-- op[7:0], the byte stored at the higher address (R56). -/
def lowByte (op : Word) : Byte := op.extractLsb' 0 8

/-! ## The decoder -/

/-- Why bytes are not an instruction. -/
inductive DecodeError where
  /-- R95: the word matches no row of R88. -/
  | invalidOpcode (op : Word)
  /-- Fewer than the two bytes every instruction has (R87). -/
  | truncated
  deriving DecidableEq, Repr

/-- Class 0x0: only the whole words 00E0 and 00EE (R89). -/
def decodeClass0 (op : Word) : Except DecodeError Instr :=
  if op = 0x00E0 then .ok .cls
  else if op = 0x00EE then .ok .ret
  else .error (.invalidOpcode op)

/-- Class 0x8: the selector is N (R91). -/
def decodeClass8 (op : Word) : Except DecodeError Instr :=
  match fieldN op with
  | 0x0 => .ok (.ldReg (fieldX op) (fieldY op))
  | 0x1 => .ok (.orReg (fieldX op) (fieldY op))
  | 0x2 => .ok (.andReg (fieldX op) (fieldY op))
  | 0x3 => .ok (.xorReg (fieldX op) (fieldY op))
  | 0x4 => .ok (.addReg (fieldX op) (fieldY op))
  | 0x5 => .ok (.subReg (fieldX op) (fieldY op))
  | 0x6 => .ok (.shr (fieldX op) (fieldY op))
  | 0x7 => .ok (.subn (fieldX op) (fieldY op))
  | 0xE => .ok (.shl (fieldX op) (fieldY op))
  | _ => .error (.invalidOpcode op)

/-- Class 0xE: the selector is NN (R92). -/
def decodeClassE (op : Word) : Except DecodeError Instr :=
  match fieldNN op with
  | 0x9E => .ok (.skp (fieldX op))
  | 0xA1 => .ok (.sknp (fieldX op))
  | _ => .error (.invalidOpcode op)

/-- Class 0xF: the selector is NN (R93). -/
def decodeClassF (op : Word) : Except DecodeError Instr :=
  match fieldNN op with
  | 0x07 => .ok (.ldVxDt (fieldX op))
  | 0x0A => .ok (.ldVxK (fieldX op))
  | 0x15 => .ok (.ldDtVx (fieldX op))
  | 0x18 => .ok (.ldStVx (fieldX op))
  | 0x1E => .ok (.addI (fieldX op))
  | 0x29 => .ok (.ldF (fieldX op))
  | 0x33 => .ok (.ldB (fieldX op))
  | 0x55 => .ok (.storeRegs (fieldX op))
  | 0x65 => .ok (.loadRegs (fieldX op))
  | _ => .error (.invalidOpcode op)

/-- `Decode(op)` of R80: dispatch on the class, then on the class's selector (R85). Classes 0x5 and 0x9 need N = 0
(R90); the classes with no selector accept every word (R94). -/
def decodeWord (op : Word) : Except DecodeError Instr :=
  match fieldClass op with
  | 0x0 => decodeClass0 op
  | 0x1 => .ok (.jp (fieldNNN op))
  | 0x2 => .ok (.call (fieldNNN op))
  | 0x3 => .ok (.seImm (fieldX op) (fieldNN op))
  | 0x4 => .ok (.sneImm (fieldX op) (fieldNN op))
  | 0x5 => if fieldN op = 0x0 then .ok (.seReg (fieldX op) (fieldY op)) else .error (.invalidOpcode op)
  | 0x6 => .ok (.ldImm (fieldX op) (fieldNN op))
  | 0x7 => .ok (.addImm (fieldX op) (fieldNN op))
  | 0x8 => decodeClass8 op
  | 0x9 => if fieldN op = 0x0 then .ok (.sneReg (fieldX op) (fieldY op)) else .error (.invalidOpcode op)
  | 0xA => .ok (.ldI (fieldNNN op))
  | 0xB => .ok (.jpV0 (fieldNNN op))
  | 0xC => .ok (.rnd (fieldX op) (fieldNN op))
  | 0xD => .ok (.drw (fieldX op) (fieldY op) (fieldN op))
  | 0xE => decodeClassE op
  | 0xF => decodeClassF op
  | _ => .error (.invalidOpcode op)

/-- The decoder on bytes as they lie in memory: one instruction is two bytes, high byte first (R56, R87); the answer
holds the bytes that follow. -/
def decodeBytes : List Byte → Except DecodeError (Instr × List Byte)
  | hi :: lo :: rest =>
    match decodeWord (joinBytes hi lo) with
    | .ok i => .ok (i, rest)
    | .error e => .error e
  | _ => .error .truncated

/-! ## The encoder -/

/-- Format A: `cccc nnnn nnnn nnnn` (R87). -/
def formatA (c : Nibble) (nnn : Addr12) : Word := c ++ nnn

/-- Format XK: `cccc xxxx kkkk kkkk` (R87). Format XS has the same layout with a fixed selector in bits 7–0. -/
def formatXK (c x : Nibble) (nn : Byte) : Word := c ++ x ++ nn

/-- Format XYN: `cccc xxxx yyyy nnnn` (R87). Format XY has the same layout with a fixed selector in bits 3–0. -/
def formatXYN (c x y n : Nibble) : Word := c ++ x ++ y ++ n

/-- The word of an instruction (R88). -/
def encode : Instr → Word
  | .cls => 0x00E0
  | .ret => 0x00EE
  | .jp nnn => formatA 0x1 nnn
  | .call nnn => formatA 0x2 nnn
  | .seImm x nn => formatXK 0x3 x nn
  | .sneImm x nn => formatXK 0x4 x nn
  | .seReg x y => formatXYN 0x5 x y 0x0
  | .ldImm x nn => formatXK 0x6 x nn
  | .addImm x nn => formatXK 0x7 x nn
  | .ldReg x y => formatXYN 0x8 x y 0x0
  | .orReg x y => formatXYN 0x8 x y 0x1
  | .andReg x y => formatXYN 0x8 x y 0x2
  | .xorReg x y => formatXYN 0x8 x y 0x3
  | .addReg x y => formatXYN 0x8 x y 0x4
  | .subReg x y => formatXYN 0x8 x y 0x5
  | .shr x y => formatXYN 0x8 x y 0x6
  | .subn x y => formatXYN 0x8 x y 0x7
  | .shl x y => formatXYN 0x8 x y 0xE
  | .sneReg x y => formatXYN 0x9 x y 0x0
  | .ldI nnn => formatA 0xA nnn
  | .jpV0 nnn => formatA 0xB nnn
  | .rnd x nn => formatXK 0xC x nn
  | .drw x y n => formatXYN 0xD x y n
  | .skp x => formatXK 0xE x 0x9E
  | .sknp x => formatXK 0xE x 0xA1
  | .ldVxDt x => formatXK 0xF x 0x07
  | .ldVxK x => formatXK 0xF x 0x0A
  | .ldDtVx x => formatXK 0xF x 0x15
  | .ldStVx x => formatXK 0xF x 0x18
  | .addI x => formatXK 0xF x 0x1E
  | .ldF x => formatXK 0xF x 0x29
  | .ldB x => formatXK 0xF x 0x33
  | .storeRegs x => formatXK 0xF x 0x55
  | .loadRegs x => formatXK 0xF x 0x65

/-- The bytes of an instruction in memory order (R56). -/
def encodeBytes (i : Instr) : List Byte :=
  [highByte (encode i), lowByte (encode i)]

/-- The first word of an instruction given as the number `w` of `nbits` bits, bits above `nbits` being 0. -/
def tableWord (nbits w : Nat) : Word := BitVec.ofNat 16 (w % 2 ^ nbits)

/-- The instruction the decoder reads from a word numbered as spec/opcode_table.json numbers it, laid out in memory
order (R56). -/
def decodeTableWord (nbits w : Nat) : Option Instr :=
  match decodeBytes [highByte (tableWord nbits w), lowByte (tableWord nbits w)] with
  | .ok (i, _) => some i
  | .error _ => none

end Sys2Proof
end

