-- ==== Sys2Proof/Config.lean ====
section
/-! DEFINITION. The parameters the spec leaves open (R8): `RNG`, which nothing here gives a value, and the default the
spec offers for `FONT` (R313). `TIMER_HZ` and `CYCLES_PER_TICK` need no constant: every interleaving of transactions
is a run of the model (R287). -/

namespace Sys2Proof

/-- R186, `RNG`: the byte of the `n`-th draw. Uninterpreted: a claim about CXNN holds for every byte source.
DESIGN CHOICE (log entry 2). -/
opaque Config.rng : Nat → Byte

/-- R313: the default glyphs 0–7, five rows each, top row first. PRESUMED (log entry 1): the spec itself marks these
bytes as general knowledge. -/
def Config.glyphsLow : List (List Byte) :=
  [[0xF0, 0x90, 0x90, 0x90, 0xF0], [0x20, 0x60, 0x20, 0x20, 0x70], [0xF0, 0x10, 0xF0, 0x80, 0xF0],
   [0xF0, 0x10, 0xF0, 0x10, 0xF0], [0x90, 0x90, 0xF0, 0x10, 0x10], [0xF0, 0x80, 0xF0, 0x10, 0xF0],
   [0xF0, 0x80, 0xF0, 0x90, 0xF0], [0xF0, 0x10, 0x20, 0x40, 0x40]]

/-- R313: the default glyphs 8–F. PRESUMED (log entry 1). -/
def Config.glyphsHigh : List (List Byte) :=
  [[0xF0, 0x90, 0xF0, 0x90, 0xF0], [0xF0, 0x90, 0xF0, 0x10, 0xF0], [0xF0, 0x90, 0xF0, 0x90, 0x90],
   [0xE0, 0x90, 0xE0, 0x90, 0xE0], [0xF0, 0x80, 0x80, 0x80, 0xF0], [0xE0, 0x90, 0x90, 0x90, 0xE0],
   [0xF0, 0x80, 0xF0, 0x80, 0xF0], [0xF0, 0x80, 0xF0, 0x80, 0x80]]

/-- The default of the parameter `FONT` (R313): 16 glyphs of 5 bytes, glyph d at 5d (R207). -/
def Config.defaultFont : Vector Byte 80 :=
  ⟨((Config.glyphsLow ++ Config.glyphsHigh).flatten).toArray, by decide⟩

end Sys2Proof
end

