-- ==== Sys2Proof/Machine/State.lean ====
section
/-! DEFINITION. The machine's state as plain data (10_state.md), its value after Reset (R39), and the reasons a step could
stop: none, since every error of this core is a state it enters (R271). -/

namespace Sys2Proof.Machine

/-- The fatal error kinds (R270). -/
inductive ErrKind where
  /-- Raised by the decoder (R272). -/
  | invalidOpcode
  /-- Raised by 2NNN with 16 entries on the stack (R273). -/
  | stackOverflow
  /-- Raised by 00EE with an empty stack (R274). -/
  | stackUnderflow
  /-- Raised by the fetch, DXYN, FX33, FX55 and FX65 (R275). -/
  | addressOutOfRange
  /-- Raised by EX9E and EXA1 (R276). -/
  | keyIndexOutOfRange
  deriving DecidableEq, Repr

/-- The record ERR holds (R36): the kind, the fetched word or none, the PC of the faulting instruction, and the
offending address (or key index, R270) or none. Addresses here are the unbounded integers of R53. -/
structure ErrRecord where
  kind : ErrKind
  opcode : Option Word
  addr : Word
  info : Option Nat
  deriving DecidableEq, Repr

/-- Reasons the model stops with a fault. There are none: the spec gives every error of this core an effect on the
state (R270, R271), and the model takes it (log entry 19). -/
inductive Fault where
  deriving DecidableEq, Repr

/-- Reasons the model has no meaning for an instruction. -/
inductive Refusal where
  /-- Raised by `exec` for an instruction with no meaning yet (safe). No instruction is left so. -/
  | notModelled (mnemonic : String)
  deriving DecidableEq, Repr

/-- Memory as the cells that differ from what Reset leaves, addresses rising (`Memory.wf`). -/
abbrev Memory := List Host.Cell

/-- The state of the block (10_state.md), and at the end the model's own two fields. -/
structure State where
  /-- V0–VF (R20). -/
  v : Vector Byte 16
  /-- I (R26). -/
  i : Word
  /-- PC (R23). -/
  pc : Word
  /-- STACK[0..15] (R27). -/
  stack : Vector Word 16
  /-- The depth count SP + 1 (R28). -/
  depth : Fin 17
  /-- DT (R30). -/
  dt : Byte
  /-- ST (R30). -/
  st : Byte
  /-- MEM (R50). -/
  mem : Memory
  /-- FB (R31): row y of the grid, bit x of it being FB[y*64 + x]. -/
  fb : Vector (BitVec 64) 32
  /-- KEY[0x0..0xF] (R33). -/
  key : Vector Bool 16
  /-- HALT (R34). -/
  halt : Bool
  /-- REDRAW (R32). -/
  redraw : Bool
  /-- WAIT (R35): `none`, or `some x` for await(x). -/
  wait : Option Nibble
  /-- ERR (R36). -/
  err : Option ErrRecord
  /-- The MODEL's own: how many bytes CXNN has drawn, the argument of the next `Config.rng` (R186; log entry 2). -/
  draws : Nat
  /-- The MODEL's own: the value of the open parameter FONT (R8, R313; log entry 1). -/
  font : Vector Byte 80
  deriving DecidableEq, Repr

/-- The state after Reset (R39, R310), with the default FONT of R313 (PRESUMED, log entry 1) and no byte drawn yet
(DESIGN CHOICE, log entry 2). Nothing is listed in memory: what Reset leaves there is what an unlisted address reads
as. -/
def State.reset : State where
  v := .replicate 16 0x00
  i := 0x0000
  pc := 0x0200
  stack := .replicate 16 0x0000
  depth := 0
  dt := 0x00
  st := 0x00
  mem := []
  fb := .replicate 32 0
  key := .replicate 16 false
  halt := false
  redraw := false
  wait := none
  err := none
  draws := 0
  font := Config.defaultFont

end Sys2Proof.Machine
end

