-- ==== Sys2Proof/Machine/Memory.lean ====
section
/-! DEFINITION. Memory as a list of cells in canonical form (R50): addresses strictly rising, none above 0xFFF, and no cell
equal to what Reset leaves at its address. `base` is what an unlisted address reads as. -/

namespace Sys2Proof.Machine

/-- What Reset leaves at an address (R39): the 80 FONT bytes at 0x000–0x04F, 0x00 above them. An address that is not
listed reads as this. -/
def resetByte (font : Vector Byte 80) (a : Nat) : Byte :=
  if h : a < 80 then font[a] else 0x00

/-- The cell listed at an address. -/
def Memory.find : Memory → Nat → Option Byte
  | [], _ => none
  | (b, v) :: m, a => if a = b then some v else Memory.find m a

/-- MEM[a] (R50). -/
def Memory.read (base : Nat → Byte) (m : Memory) (a : Nat) : Byte :=
  (Memory.find m a).getD (base a)

/-- List `v` at address `a`, in its place in the order. -/
def Memory.insert : Memory → Nat → Byte → Memory
  | [], a, v => [(a, v)]
  | (b, w) :: m, a, v =>
    if a < b then (a, v) :: (b, w) :: m
    else if a = b then (a, v) :: m
    else (b, w) :: Memory.insert m a v

/-- List nothing at address `a`. -/
def Memory.erase : Memory → Nat → Memory
  | [], _ => []
  | (b, w) :: m, a => if a = b then Memory.erase m a else (b, w) :: Memory.erase m a

/-- MEM[a] <- v, keeping the canonical form: writing what an unlisted address reads as lists nothing. -/
def Memory.write (base : Nat → Byte) (m : Memory) (a : Nat) (v : Byte) : Memory :=
  if v = base a then Memory.erase m a else Memory.insert m a v

/-- The canonical form: addresses strictly rising, within 0x000–0xFFF, no cell that says what an unlisted address
reads as. -/
abbrev Memory.wf (base : Nat → Byte) (m : Memory) : Prop :=
  m.Pairwise (fun c d => c.1 < d.1) ∧ ∀ c ∈ m, c.1 ≤ 0xFFF ∧ c.2 ≠ base c.1

end Sys2Proof.Machine
end

