-- ==== Sys2Proof/Machine/Operands.lean ====
section
/-! DEFINITION. How operands are assembled: zero extension (R9, R83), the addresses an I-based instruction touches (R53), the
pixels of a sprite (R121), the decimal digits of FX33 (R203). -/

namespace Sys2Proof.Machine

/-- `zext_16` of an 8-bit value (R9). -/
def zextByte (b : Byte) : Word := b.setWidth 16

/-- `zext_16` of the field NNN (R83). -/
def zextAddr (nnn : Addr12) : Word := nnn.setWidth 16

/-- A key code as the byte FX0A stores (R232, R288). -/
def zextKey (k : Nibble) : Byte := k.setWidth 8

/-- R53: of the `n` addresses from `a` up, the lowest one above 0xFFF, if there is one. Addresses are unbounded
integers. -/
def firstOutOfRange (a n : Nat) : Option Nat :=
  if 0 < n ∧ 0xFFF < a + n - 1 then some (max a 0x1000) else none

/-- The register numbers FX55 and FX65 go through, 0 .. X (R204, R205). -/
def registersUpTo (x : Nibble) : List Nibble :=
  (List.range (x.toNat + 1)).map (BitVec.ofNat 4)

/-- FX33: the hundreds, tens and ones digits of a byte (R203). -/
def bcdDigits (v : Byte) : List Byte :=
  [BitVec.ofNat 8 (v.toNat / 100), BitVec.ofNat 8 (v.toNat / 10 % 10), BitVec.ofNat 8 (v.toNat % 10)]

/-- DXYN: the start column, V[X] mod 64 (R121). -/
def startColumn (vx : Byte) : Nat := vx.toNat % 64

/-- DXYN: the start row, V[Y] mod 32 (R121). -/
def startRow (vy : Byte) : Nat := vy.toNat % 32

/-- DXYN: the column of sprite bit column `c`, wrapping at the right edge (R121). -/
def spriteColumn (x0 c : Nat) : Nat := (x0 + c) % 64

/-- DXYN: the display row of sprite row `r`, wrapping at the bottom edge (R121). -/
def spriteRow (y0 r : Nat) : Nat := (y0 + r) % 32

/-- DXYN: the bit of a sprite byte for column offset `c`: bit 7 is the leftmost pixel (R121; the spec's decision D9,
PRESUMED, log entry 9). -/
def spriteBit (row : Byte) (c : Nat) : Bool := row.getLsbD (7 - c)

end Sys2Proof.Machine
end

