-- ==== Sys2Proof/Machine/Ops.lean ====
section
/-! DEFINITION. The named operations over registers, stack, memory, framebuffer and keypad; raising a fatal error (R271)
and the Reset that alone leaves the halted state (R279, R310); fetch (R81). -/

namespace Sys2Proof.Machine

/-! ## Registers -/

/-- V[x] (R11, R20). -/
def State.reg (s : State) (x : Nibble) : Byte := s.v[x.toNat]'x.isLt

/-- V[x] <- b (R11, R20). -/
def State.setReg (s : State) (x : Nibble) (b : Byte) : State :=
  { s with v := s.v.set x.toNat b x.isLt }

/-- V[xs[0]] <- bs[0], V[xs[1]] <- bs[1], and so on in that order (R205). -/
def State.setRegs (s : State) : List Nibble → List Byte → State
  | x :: xs, b :: bs => (s.setReg x b).setRegs xs bs
  | _, _ => s

/-- I <- w (R26). -/
def State.setI (s : State) (w : Word) : State := { s with i := w }

/-- PC <- w (R11). -/
def State.setPc (s : State) (w : Word) : State := { s with pc := w }

/-- PC <- PC + k (R24). -/
def State.advance (s : State) (k : Word) : State := s.setPc (s.pc + k)

/-- The end of a skip: PC + 4 when its condition holds, else PC + 2 (R24, R86). -/
def State.skipIf (s : State) (c : Bool) : State := s.advance (if c then 4 else 2)

/-- DT <- b (R30). -/
def State.setDt (s : State) (b : Byte) : State := { s with dt := b }

/-- ST <- b (R30). -/
def State.setSt (s : State) (b : Byte) : State := { s with st := b }

/-- WAIT <- w (R35). -/
def State.setWait (s : State) (w : Option Nibble) : State := { s with wait := w }

/-- REDRAW <- b (R32). -/
def State.setRedraw (s : State) (b : Bool) : State := { s with redraw := b }

/-- HALT <- b (R34). -/
def State.setHalt (s : State) (b : Bool) : State := { s with halt := b }

/-! ## The return stack -/

/-- SP, -1 when the stack is empty (R28). -/
def State.sp (s : State) : Int := (s.depth.val : Int) - 1

/-- The stack slots and the depth count take new values (R27, R28). -/
def State.setStack (s : State) (stack : Vector Word 16) (depth : Fin 17) : State :=
  { s with stack := stack, depth := depth }

/-- `Push(v)` of R29; none when the stack is full (SP = 15). -/
def State.push (s : State) (w : Word) : Option State :=
  if h : s.depth.val < 16 then
    some (s.setStack (s.stack.set s.depth.val w h) ⟨s.depth.val + 1, by omega⟩)
  else none

/-- `Pop()` of R29: the top entry and the state after, its slot keeping the value; none when the stack is empty
(SP = -1). -/
def State.pop (s : State) : Option (Word × State) :=
  if h : 0 < s.depth.val then
    some (s.stack[s.depth.val - 1]'(by omega), s.setStack s.stack ⟨s.depth.val - 1, by omega⟩)
  else none

/-! ## The framebuffer and the keypad -/

/-- FB[y*64 + x], for x below 64 and y below 32 (R31). -/
def framePixel (fb : Vector (BitVec 64) 32) (x y : Nat) : Bool :=
  if h : y < 32 then fb[y].getLsbD x else false

/-- FB[y*64 + x] <- FB[y*64 + x] ^ 1 (R121). -/
def togglePixel (fb : Vector (BitVec 64) 32) (x y : Nat) : Vector (BitVec 64) 32 :=
  if h : y < 32 then fb.set y (fb[y] ^^^ BitVec.twoPow 64 x) h else fb

/-- The pixel in column x of row y (R31). -/
def State.pixel (s : State) (x y : Nat) : Bool := framePixel s.fb x y

/-- FB <- fb. -/
def State.setFb (s : State) (fb : Vector (BitVec 64) 32) : State := { s with fb := fb }

/-- KEY[k] (R33). -/
def State.keyPressed (s : State) (k : Nibble) : Bool := s.key[k.toNat]'k.isLt

/-- KEY[k] <- b (R33). -/
def State.setKey (s : State) (k : Nibble) (b : Bool) : State :=
  { s with key := s.key.set k.toNat b k.isLt }

/-! ## Memory -/

/-- What an address that is not listed in memory reads as: what Reset left there (R39). -/
def State.unlisted (s : State) (a : Nat) : Byte := resetByte s.font a

/-- MEM[a] (R50), for an address in range. -/
def State.byte (s : State) (a : Nat) : Byte := Memory.read s.unlisted s.mem a

/-- MEM[a] <- b (R50); no address above 0xFFF exists. No address is protected (R57). -/
def State.setByte (s : State) (a : Nat) (b : Byte) : State :=
  { s with mem := if a ≤ 0xFFF then Memory.write s.unlisted s.mem a b else s.mem }

/-- MEM[a], MEM[a+1], … for `n` bytes, ascending (R55). -/
def State.bytes (s : State) (a : Nat) : Nat → List Byte
  | 0 => []
  | n + 1 => s.byte a :: s.bytes (a + 1) n

/-- MEM[a] <- bs[0], MEM[a+1] <- bs[1], …, ascending (R55). -/
def State.setBytes (s : State) (a : Nat) : List Byte → State
  | [] => s
  | b :: bs => (s.setByte a b).setBytes (a + 1) bs

/-- `n` reads of `MemRead` from `a` up, every address checked first (R12, R53); the error is the lowest address above
0xFFF. -/
def State.memRead (s : State) (a n : Nat) : Except Nat (List Byte) :=
  match firstOutOfRange a n with
  | some e => .error e
  | none => .ok (s.bytes a n)

/-- `MemWrite` of the bytes from `a` up, every address checked before the first write (R12, R53); the error is the
lowest address above 0xFFF. -/
def State.memWrite (s : State) (a : Nat) (bs : List Byte) : Except Nat State :=
  match firstOutOfRange a bs.length with
  | some e => .error e
  | none => .ok (s.setBytes a bs)

/-- `Fetch(PC)` of R81: the bytes at PC and PC + 1, the first one high; the error is the lowest address above 0xFFF.
Any PC in range is fetched, odd ones too (R54). -/
def State.fetch (s : State) : Except Nat Word :=
  match firstOutOfRange s.pc.toNat 2 with
  | some e => .error e
  | none => .ok (joinBytes (s.byte s.pc.toNat) (s.byte (s.pc.toNat + 1)))

/-! ## Fatal errors and Reset -/

/-- `raise E(info)` (R13, R271): HALT and, if ERR holds no earlier report, ERR; nothing else changes, so PC stays at
the faulting instruction. -/
def State.raise (s : State) (kind : ErrKind) (opcode : Option Word) (info : Option Nat) : State :=
  { s with
    halt := true
    err := match s.err with
      | none => some ⟨kind, opcode, s.pc, info⟩
      | some e => some e }

/-- `raise` from the instruction `i`, whose word is the one that was fetched (R270; log entry 20). -/
def State.raiseFrom (s : State) (i : Instr) (kind : ErrKind) (info : Option Nat) : State :=
  s.raise kind (some (encode i)) info

/-- The host's `Reset` (R310): every state element takes its value of R39, whatever it was. The parameters FONT and RNG
are no state of the block and stay (R42, R310). There is no other return from a fatal error (R279). -/
def State.hostReset (s : State) : State :=
  { State.reset with draws := s.draws, font := s.font }

/-! ## Random bytes -/

/-- `draw RNG()` (R186): a byte nothing is known of, and the state in which the next draw is another one. -/
def State.drawRandom (s : State) : Byte × State :=
  (Config.rng s.draws, { s with draws := s.draws + 1 })

/-! ## Placing a word for the next fetch -/

/-- A PC from which a word can be fetched: the PC itself where R81 allows it, else the load address 0x200. -/
def State.fetchablePc (s : State) : Word :=
  if s.pc.toNat + 1 ≤ 0xFFF then s.pc else 0x0200

/-- The state in which the next Step fetches `op`: not halted, not waiting, the word at the PC (R80, R81). It stands
for the host's loading of a program (R316; log entry 18). -/
def State.placeWord (s : State) (op : Word) : State :=
  (((s.setHalt false).setWait none).setPc s.fetchablePc).setBytes s.fetchablePc.toNat [highByte op, lowByte op]

end Sys2Proof.Machine
end

