-- ==== Sys2Proof/Machine/Alu.lean ====
section
/-! DEFINITION. The ALU instructions (42_alu.md). Operands are read before any write, and where a flag is written VF is
written last (R21), so a flag overwrites the result when X = 0xF (R185). -/

namespace Sys2Proof.Machine

/-- The end of an ALU instruction with no flag: V[X] <- result, PC + 2 (R184). -/
def State.finishResult (s : State) (x : Nibble) (result : Byte) : State :=
  (s.setReg x result).advance 2

/-- The end of a flag-setting ALU instruction: V[X] <- result, then VF <- flag, PC + 2 (R21). -/
def State.finishFlagged (s : State) (x : Nibble) (result : Byte) (flag : Bool) : State :=
  ((s.setReg x result).setReg 0xF (flagByte flag)).advance 2

/-- 6XNN (R170). -/
def execLdImm (x : Nibble) (nn : Byte) (s : State) : Host.Outcome State Fault Refusal :=
  .next (s.finishResult x nn)

/-- 7XNN: addition mod 2^8, no flag (R171). -/
def execAddImm (x : Nibble) (nn : Byte) (s : State) : Host.Outcome State Fault Refusal :=
  .next (s.finishResult x (s.reg x + nn))

/-- 8XY0 (R172). -/
def execLdReg (x y : Nibble) (s : State) : Host.Outcome State Fault Refusal :=
  .next (s.finishResult x (s.reg y))

/-- 8XY1 (R173). -/
def execOrReg (x y : Nibble) (s : State) : Host.Outcome State Fault Refusal :=
  .next (s.finishResult x (s.reg x ||| s.reg y))

/-- 8XY2 (R174). -/
def execAndReg (x y : Nibble) (s : State) : Host.Outcome State Fault Refusal :=
  .next (s.finishResult x (s.reg x &&& s.reg y))

/-- 8XY3 (R175). -/
def execXorReg (x y : Nibble) (s : State) : Host.Outcome State Fault Refusal :=
  .next (s.finishResult x (s.reg x ^^^ s.reg y))

/-- 8XY4: V[X] + V[Y] mod 2^8, VF = carry (R176). -/
def execAddReg (x y : Nibble) (s : State) : Host.Outcome State Fault Refusal :=
  .next (s.finishFlagged x (s.reg x + s.reg y) (carryOut (s.reg x) (s.reg y)))

/-- 8XY5: V[X] - V[Y] mod 2^8, VF = NOT borrow (R177). -/
def execSubReg (x y : Nibble) (s : State) : Host.Outcome State Fault Refusal :=
  .next (s.finishFlagged x (s.reg x - s.reg y) (notBorrow (s.reg x) (s.reg y)))

/-- 8XY6: V[X] >> 1, VF = the old bit 0; Y is ignored (R178, R96). -/
def execShr (x _y : Nibble) (s : State) : Host.Outcome State Fault Refusal :=
  .next (s.finishFlagged x (s.reg x >>> 1) (shiftedOutRight (s.reg x)))

/-- 8XY7: V[Y] - V[X] mod 2^8, VF = NOT borrow (R179). -/
def execSubn (x y : Nibble) (s : State) : Host.Outcome State Fault Refusal :=
  .next (s.finishFlagged x (s.reg y - s.reg x) (notBorrow (s.reg y) (s.reg x)))

/-- 8XYE: V[X] << 1 mod 2^8, VF = the old bit 7; Y is ignored (R180, R96). -/
def execShl (x _y : Nibble) (s : State) : Host.Outcome State Fault Refusal :=
  .next (s.finishFlagged x (s.reg x <<< 1) (shiftedOutLeft (s.reg x)))

/-- CXNN: one byte drawn, V[X] <- NN & byte (R181, R186; log entry 2). -/
def execRnd (x : Nibble) (nn : Byte) (s : State) : Host.Outcome State Fault Refusal :=
  let drawn := s.drawRandom
  .next (drawn.2.finishResult x (nn &&& drawn.1))

end Sys2Proof.Machine
end

