-- ==== Sys2Proof/Machine/ControlFlow.lean ====
section
/-! DEFINITION. Return, jumps, call and the register skips (41_control_flow.md). -/

namespace Sys2Proof.Machine

/-- 00EE: PC takes the popped entry, with nothing added; StackUnderflow when the stack is empty (R140). -/
def execRet (s : State) : Host.Outcome State Fault Refusal :=
  match s.pop with
  | none => .next (s.raiseFrom .ret .stackUnderflow none)
  | some (target, s') => .next (s'.setPc target)

/-- 1NNN: PC <- NNN (R141). -/
def execJp (nnn : Addr12) (s : State) : Host.Outcome State Fault Refusal :=
  .next (s.setPc (zextAddr nnn))

/-- 2NNN: push PC + 2, then PC <- NNN; StackOverflow when 16 entries are pending (R142). -/
def execCall (nnn : Addr12) (s : State) : Host.Outcome State Fault Refusal :=
  match s.push (s.pc + 2) with
  | none => .next (s.raiseFrom (.call nnn) .stackOverflow none)
  | some s' => .next (s'.setPc (zextAddr nnn))

/-- 3XNN: skip if V[X] = NN (R143). -/
def execSeImm (x : Nibble) (nn : Byte) (s : State) : Host.Outcome State Fault Refusal :=
  .next (s.skipIf (s.reg x == nn))

/-- 4XNN: skip if V[X] ≠ NN (R144). -/
def execSneImm (x : Nibble) (nn : Byte) (s : State) : Host.Outcome State Fault Refusal :=
  .next (s.skipIf (s.reg x != nn))

/-- 5XY0: skip if V[X] = V[Y] (R145). -/
def execSeReg (x y : Nibble) (s : State) : Host.Outcome State Fault Refusal :=
  .next (s.skipIf (s.reg x == s.reg y))

/-- 9XY0: skip if V[X] ≠ V[Y] (R146). -/
def execSneReg (x y : Nibble) (s : State) : Host.Outcome State Fault Refusal :=
  .next (s.skipIf (s.reg x != s.reg y))

/-- BNNN: PC <- NNN + V0, not masked to 12 bits (R147; the spec's decision D10, log entry 10). -/
def execJpV0 (nnn : Addr12) (s : State) : Host.Outcome State Fault Refusal :=
  .next (s.setPc (zextAddr nnn + zextByte (s.reg 0x0)))

end Sys2Proof.Machine
end

