-- ==== Sys2Proof/Machine/Display.lean ====
section
/-! DEFINITION. The display instructions 00E0 and DXYN (40_display.md). -/

namespace Sys2Proof.Machine

/-- 00E0: every pixel clear, REDRAW set, PC + 2 (R120). -/
def execCls (s : State) : Host.Outcome State Fault Refusal :=
  .next (((s.setFb (.replicate 32 0)).setRedraw true).advance 2)

/-- One sprite pixel of R121's inner loop: where the bit is set, note a collision if the pixel is set, then toggle it. -/
def drawPixel (x0 y : Nat) (row : Byte) (acc : Vector (BitVec 64) 32 × Bool) (c : Nat) :
    Vector (BitVec 64) 32 × Bool :=
  if spriteBit row c then
    (togglePixel acc.1 (spriteColumn x0 c) y, acc.2 || framePixel acc.1 (spriteColumn x0 c) y)
  else acc

/-- The eight columns of one sprite row, c = 0 .. 7 (R121). -/
def drawRow (x0 y : Nat) (row : Byte) (acc : Vector (BitVec 64) 32 × Bool) : Vector (BitVec 64) 32 × Bool :=
  (List.range 8).foldl (drawPixel x0 y row) acc

/-- The sprite rows in order, the first one being row number `r` of the sprite (R121). -/
def drawRows (x0 y0 : Nat) : List Byte → Nat → Vector (BitVec 64) 32 × Bool → Vector (BitVec 64) 32 × Bool
  | [], _, acc => acc
  | row :: rows, r, acc => drawRows x0 y0 rows (r + 1) (drawRow x0 (spriteRow y0 r) row acc)

/-- The XOR draw primitive (R121, R122): the framebuffer after the sprite, and whether some pixel went from 1 to 0. -/
def drawSprite (fb : Vector (BitVec 64) 32) (x0 y0 : Nat) (rows : List Byte) : Vector (BitVec 64) 32 × Bool :=
  drawRows x0 y0 rows 0 (fb, false)

/-- DXYN: N sprite rows from memory at I are XORed onto FB at (V[X] mod 64, V[Y] mod 32), wrapping; REDRAW set, then
VF = collision, last; AddressOutOfRange before any write if a row lies above 0xFFF (R121). -/
def execDrw (x y n : Nibble) (s : State) : Host.Outcome State Fault Refusal :=
  match s.memRead s.i.toNat n.toNat with
  | .error a => .next (s.raiseFrom (.drw x y n) .addressOutOfRange (some a))
  | .ok rows =>
    let drawn := drawSprite s.fb (startColumn (s.reg x)) (startRow (s.reg y)) rows
    .next ((((s.setFb drawn.1).setRedraw true).setReg 0xF (flagByte drawn.2)).advance 2)

end Sys2Proof.Machine
end

