-- ==== Sys2Proof/Machine/IndexMemory.lean ====
section
/-! DEFINITION. The index register and memory instructions (43_index_memory.md). FX33, FX55 and FX65 do not change I
(R206; the spec's decision D12, log entry 12). -/

namespace Sys2Proof.Machine

/-- ANNN: I <- NNN (R200). -/
def execLdI (nnn : Addr12) (s : State) : Host.Outcome State Fault Refusal :=
  .next ((s.setI (zextAddr nnn)).advance 2)

/-- FX1E: I <- I + V[X] mod 2^16, then VF = (new I > 0xFFF) (R201; the spec's decision D11, log entry 11). -/
def execAddI (x : Nibble) (s : State) : Host.Outcome State Fault Refusal :=
  let sum := s.i + zextByte (s.reg x)
  .next (((s.setI sum).setReg 0xF (flagByte (indexAboveMemory sum))).advance 2)

/-- FX29: I <- V[X] * 5, V[X] not masked (R202). -/
def execLdF (x : Nibble) (s : State) : Host.Outcome State Fault Refusal :=
  .next ((s.setI (zextByte (s.reg x) * 5)).advance 2)

/-- FX33: the three decimal digits of V[X] to I, I+1, I+2 (R203). -/
def execLdB (x : Nibble) (s : State) : Host.Outcome State Fault Refusal :=
  match s.memWrite s.i.toNat (bcdDigits (s.reg x)) with
  | .error a => .next (s.raiseFrom (.ldB x) .addressOutOfRange (some a))
  | .ok s' => .next (s'.advance 2)

/-- FX55: V0 .. V[X] to I, I+1, … (R204). -/
def execStoreRegs (x : Nibble) (s : State) : Host.Outcome State Fault Refusal :=
  match s.memWrite s.i.toNat ((registersUpTo x).map s.reg) with
  | .error a => .next (s.raiseFrom (.storeRegs x) .addressOutOfRange (some a))
  | .ok s' => .next (s'.advance 2)

/-- FX65: V0 .. V[X] from I, I+1, … (R205). -/
def execLoadRegs (x : Nibble) (s : State) : Host.Outcome State Fault Refusal :=
  match s.memRead s.i.toNat (x.toNat + 1) with
  | .error a => .next (s.raiseFrom (.loadRegs x) .addressOutOfRange (some a))
  | .ok bs => .next ((s.setRegs (registersUpTo x) bs).advance 2)

end Sys2Proof.Machine
end

