-- ==== Sys2Proof/Machine/Keypad.lean ====
section
/-! DEFINITION. The keypad instructions (44_input.md). The latch is only read here (R33). -/

namespace Sys2Proof.Machine

/-- The key a register value names, when it is one of the 16 (R230). -/
def keyIndex (b : Byte) : Option Nibble :=
  if b.toNat ≤ 0xF then some (b.setWidth 4) else none

/-- EX9E: skip if KEY[V[X]] is pressed; KeyIndexOutOfRange when V[X] > 0xF (R230; the spec's decision D13, log
entry 13). -/
def execSkp (x : Nibble) (s : State) : Host.Outcome State Fault Refusal :=
  match keyIndex (s.reg x) with
  | none => .next (s.raiseFrom (.skp x) .keyIndexOutOfRange (some (s.reg x).toNat))
  | some k => .next (s.skipIf (s.keyPressed k))

/-- EXA1: skip if KEY[V[X]] is not pressed; KeyIndexOutOfRange when V[X] > 0xF (R231; the spec's decision D13, log
entry 13). -/
def execSknp (x : Nibble) (s : State) : Host.Outcome State Fault Refusal :=
  match keyIndex (s.reg x) with
  | none => .next (s.raiseFrom (.sknp x) .keyIndexOutOfRange (some (s.reg x).toNat))
  | some k => .next (s.skipIf (!s.keyPressed k))

/-- FX0A: WAIT <- await(X), PC and V[X] unchanged; a later KeyDown completes it (R232, R288). -/
def execLdVxK (x : Nibble) (s : State) : Host.Outcome State Fault Refusal :=
  .next (s.setWait (some x))

end Sys2Proof.Machine
end

