-- ==== Sys2Proof/Machine/Timers.lean ====
section
/-! DEFINITION. The timer instructions (45_timers.md). The countdown is the host's Tick (Machine/Transactions.lean). -/

namespace Sys2Proof.Machine

/-- FX07: V[X] <- DT (R250). -/
def execLdVxDt (x : Nibble) (s : State) : Host.Outcome State Fault Refusal :=
  .next ((s.setReg x s.dt).advance 2)

/-- FX15: DT <- V[X] (R251). -/
def execLdDtVx (x : Nibble) (s : State) : Host.Outcome State Fault Refusal :=
  .next ((s.setDt (s.reg x)).advance 2)

/-- FX18: ST <- V[X] (R252). -/
def execLdStVx (x : Nibble) (s : State) : Host.Outcome State Fault Refusal :=
  .next ((s.setSt (s.reg x)).advance 2)

end Sys2Proof.Machine
end

