-- ==== Sys2Proof/Machine/Step.lean ====
section
/-! DEFINITION. One `Step` transaction (R80, R280), and a state whose next Step fetches a given word. -/

namespace Sys2Proof.Machine

/-- R80: fetch, decode, execute, each error raised as a fatal error (R81, R95, R271). While halted or awaiting a key a
Step changes nothing (R280). -/
def step (s : State) : Host.Outcome State Fault Refusal :=
  if s.halt || s.wait.isSome then .next s
  else
    match s.fetch with
    | .error a => .next (s.raise .addressOutOfRange none (some a))
    | .ok op =>
      match decodeWord op with
      | .error _ => .next (s.raise .invalidOpcode (some op) none)
      | .ok i => exec i s

/-- The state whose very next step fetches the instruction with these bits, numbered as spec/opcode_table.json numbers
them (log entry 18). -/
def State.withFetchWord (s : State) (nbits w : Nat) : State :=
  s.placeWord (tableWord nbits w)

end Sys2Proof.Machine
end

