-- ==== Sys2Proof/Machine/Transactions.lean ====
section
/-! DEFINITION. The host's transactions (R16), each atomic and run between two Steps (R67, R281), in the order the host
issues them (R282). A run is a list of transactions, so every interleaving of Steps with Ticks and key events is a run
(R287; log entry 15). -/

namespace Sys2Proof.Machine

/-- One count of a timer, with a floor at 0 (R285). -/
def countDown (b : Byte) : Byte := if b = 0 then 0 else b - 1

/-- `Tick` (R285): both timers count down; nothing while halted (the spec's decision D18, log entry 16). -/
def State.tick (s : State) : State :=
  if s.halt then s else (s.setDt (countDown s.dt)).setSt (countDown s.st)

/-- `KeyDown(k)` (R288): the latch is set, and a pending FX0A of a machine that is not halted completes. -/
def State.pressKey (s : State) (k : Nibble) : State :=
  let s' := s.setKey k true
  if s.halt then s'
  else
    match s.wait with
    | none => s'
    | some x => ((s'.setReg x (zextKey k)).advance 2).setWait none

/-- `KeyUp(k)` (R289). -/
def State.releaseKey (s : State) (k : Nibble) : State := s.setKey k false

/-- `HaltRequest` (R290). -/
def State.haltRequest (s : State) : State := s.setHalt true

/-- `ClearRedraw` (R294). -/
def State.clearRedraw (s : State) : State := s.setRedraw false

/-- What `LoadProgram` returns (R316). -/
inductive LoadResult where
  | ok
  /-- "file too large". -/
  | loadError
  deriving DecidableEq, Repr

/-- `LoadProgram(bytes)` (R316): copied to memory from 0x200, or refused whole when longer than 0xE00 bytes. -/
def State.loadProgram (s : State) (bytes : List Byte) : LoadResult × State :=
  if 0xE00 < bytes.length then (.loadError, s) else (.ok, s.setBytes 0x200 bytes)

/-- The transactions of R16. Key codes are 0x0–0xF, so there is none for a larger code (R301). -/
inductive Transaction where
  | reset
  | loadProgram (bytes : List Byte)
  | step
  | tick
  | keyDown (k : Nibble)
  | keyUp (k : Nibble)
  | haltRequest
  | clearRedraw
  deriving DecidableEq, Repr

/-- One transaction, run to completion (R16). -/
def transact (t : Transaction) (s : State) : Host.Outcome State Fault Refusal :=
  match t with
  | .reset => .next s.hostReset
  | .loadProgram bytes => .next (s.loadProgram bytes).2
  | .step => step s
  | .tick => .next s.tick
  | .keyDown k => .next (s.pressKey k)
  | .keyUp k => .next (s.releaseKey k)
  | .haltRequest => .next s.haltRequest
  | .clearRedraw => .next s.clearRedraw

/-- Transactions one after another, in the order issued (R16, R282). -/
def transactAll : List Transaction → State → Host.Outcome State Fault Refusal
  | [], s => .next s
  | t :: ts, s =>
    match transact t s with
    | .next s' => transactAll ts s'
    | .fault r => .fault r
    | .refused r => .refused r

/-! ## Read-only outputs (R296, R297) -/

/-- The numeric code of an error kind (R270). -/
def ErrKind.code : ErrKind → Nat
  | .invalidOpcode => 1
  | .stackOverflow => 2
  | .stackUnderflow => 3
  | .addressOutOfRange => 4
  | .keyIndexOutOfRange => 5

/-- The numeric code of ERR, 0 for none (R270). -/
def State.errCode (s : State) : Nat :=
  match s.err with
  | none => 0
  | some e => e.kind.code

/-- The state view (R297): PC, I, DT, ST, SP, STACK, V0–VF and WAIT. -/
structure StateView where
  pc : Word
  i : Word
  dt : Byte
  st : Byte
  sp : Int
  stack : Vector Word 16
  v : Vector Byte 16
  wait : Option Nibble
  deriving DecidableEq, Repr

/-- The outputs the host reads between transactions (R296): FB, REDRAW, HALT, ERR, ST and the state view. -/
structure Outputs where
  fb : Vector (BitVec 64) 32
  redraw : Bool
  halt : Bool
  err : Option ErrRecord
  st : Byte
  view : StateView
  deriving DecidableEq, Repr

/-- The state view of a state (R297). -/
def State.view (s : State) : StateView where
  pc := s.pc
  i := s.i
  dt := s.dt
  st := s.st
  sp := s.sp
  stack := s.stack
  v := s.v
  wait := s.wait

/-- The outputs of a state (R296); reading them changes nothing. -/
def State.outputs (s : State) : Outputs where
  fb := s.fb
  redraw := s.redraw
  halt := s.halt
  err := s.err
  st := s.st
  view := s.view

end Sys2Proof.Machine
end

