-- ==== Sys2Proof/Safety.lean ====
section
/-! DEFINITION. The terms claims use: what may change and what stays (frames), the three power states (R300), a run with
no fatal error, and the invariant every transaction keeps. -/

namespace Sys2Proof.Machine

/-! ## Frames -/

/-- The parts of the state other than PC and V0–VF. -/
inductive Part where
  | index
  | returnStack
  | delayTimer
  | soundTimer
  | memory
  | framebuffer
  | keypad
  | haltFlag
  | redrawFlag
  | waitState
  | errorReport
  | randomIndex
  | fontParameter
  deriving DecidableEq, Repr

/-- A part has the same value in two states: every byte for memory, every pixel for the framebuffer, every key for the
keypad latch, the slots and SP for the return stack. -/
def SamePart : Part → State → State → Prop
  | .index, s, t => t.i = s.i
  | .returnStack, s, t => t.stack = s.stack ∧ t.sp = s.sp
  | .delayTimer, s, t => t.dt = s.dt
  | .soundTimer, s, t => t.st = s.st
  | .memory, s, t => ∀ a, t.byte a = s.byte a
  | .framebuffer, s, t => ∀ x y, t.pixel x y = s.pixel x y
  | .keypad, s, t => ∀ k, t.keyPressed k = s.keyPressed k
  | .haltFlag, s, t => t.halt = s.halt
  | .redrawFlag, s, t => t.redraw = s.redraw
  | .waitState, s, t => t.wait = s.wait
  | .errorReport, s, t => t.err = s.err
  | .randomIndex, s, t => t.draws = s.draws
  | .fontParameter, s, t => t.font = s.font

/-- Every part outside `changed` has in `t` the value it has in `s`. PC and the general registers are named apart. -/
def FrameBut (changed : List Part) (s t : State) : Prop :=
  ∀ p, p ∉ changed → SamePart p s t

/-- No general register changes. -/
def SameRegisters (s t : State) : Prop := ∀ r, t.reg r = s.reg r

/-- No general register changes but those of `changed`. -/
def SameRegistersBut (changed : List Nibble) (s t : State) : Prop :=
  ∀ r, r ∉ changed → t.reg r = s.reg r

/-- The general registers an instruction may write (the table of R22). FX0A writes VX only when its key arrives. -/
def registerWrites : Instr → List Nibble
  | .cls | .ret | .jp _ | .call _ | .seImm _ _ | .sneImm _ _ | .seReg _ _ | .sneReg _ _ => []
  | .ldImm x _ | .addImm x _ | .ldReg x _ | .orReg x _ | .andReg x _ | .xorReg x _ | .rnd x _ | .ldVxDt x => [x]
  | .addReg x _ | .subReg x _ | .shr x _ | .subn x _ | .shl x _ => [x, 0xF]
  | .ldI _ | .jpV0 _ | .skp _ | .sknp _ | .ldVxK _ | .ldDtVx _ | .ldStVx _ | .ldF _ | .ldB _ | .storeRegs _ => []
  | .drw _ _ _ | .addI _ => [0xF]
  | .loadRegs x => registersUpTo x

/-- The other parts an instruction may write: I (R26), the stack (R27), the timers (R30), memory (R51), FB and REDRAW
(R31, R32), WAIT (R35), HALT and ERR for the instructions with a check of their own (R277), and the count of random
draws. -/
def partWrites : Instr → List Part
  | .cls => [.framebuffer, .redrawFlag]
  | .drw _ _ _ => [.framebuffer, .redrawFlag, .haltFlag, .errorReport]
  | .ret | .call _ => [.returnStack, .haltFlag, .errorReport]
  | .ldI _ | .addI _ | .ldF _ => [.index]
  | .rnd _ _ => [.randomIndex]
  | .ldB _ | .storeRegs _ => [.memory, .haltFlag, .errorReport]
  | .loadRegs _ | .skp _ | .sknp _ => [.haltFlag, .errorReport]
  | .ldVxK _ => [.waitState]
  | .ldDtVx _ => [.delayTimer]
  | .ldStVx _ => [.soundTimer]
  | .jp _ | .seImm _ _ | .sneImm _ _ | .seReg _ _ | .sneReg _ _ | .jpV0 _ => []
  | .ldImm _ _ | .addImm _ _ | .ldReg _ _ | .orReg _ _ | .andReg _ _ | .xorReg _ _ => []
  | .addReg _ _ | .subReg _ _ | .shr _ _ | .subn _ _ | .shl _ _ | .ldVxDt _ => []

/-! ## Errors an instruction raises -/

/-- R277: an instruction's one check of its own: the stack for 2NNN and 00EE (R273, R274), the address range for DXYN,
FX33, FX55 and FX65 (R275), the key index for EX9E and EXA1 (R276). `some` says it fails: the kind raised, and ERR.info
as R270 gives it. -/
def ownCheck (i : Instr) (s : State) : Option (ErrKind × Option Nat) :=
  match i with
  | .ret => if s.sp = -1 then some (.stackUnderflow, none) else none
  | .call _ => if s.sp = 15 then some (.stackOverflow, none) else none
  | .drw _ _ n =>
    if 0 < n.toNat ∧ 0xFFF < s.i.toNat + n.toNat - 1 then some (.addressOutOfRange, some (max s.i.toNat 0x1000))
    else none
  | .ldB _ => if 0xFFF < s.i.toNat + 2 then some (.addressOutOfRange, some (max s.i.toNat 0x1000)) else none
  | .storeRegs x | .loadRegs x =>
    if 0xFFF < s.i.toNat + x.toNat then some (.addressOutOfRange, some (max s.i.toNat 0x1000)) else none
  | .skp x | .sknp x =>
    if 0xF < (s.reg x).toNat then some (.keyIndexOutOfRange, some (s.reg x).toNat) else none
  | .cls | .jp _ | .seImm _ _ | .sneImm _ _ | .seReg _ _ | .ldImm _ _ | .addImm _ _ | .ldReg _ _ | .orReg _ _
  | .andReg _ _ | .xorReg _ _ | .addReg _ _ | .subReg _ _ | .shr _ _ | .subn _ _ | .shl _ _ | .sneReg _ _ | .ldI _
  | .jpV0 _ | .rnd _ _ | .ldVxDt _ | .ldVxK _ | .ldDtVx _ | .ldStVx _ | .addI _ | .ldF _ => none

/-- The state after `raise E(info)` (R271) of a machine whose ERR is none: HALT and ERR written, nothing else. -/
def raised (s : State) (kind : ErrKind) (opcode : Option Word) (info : Option Nat) : State :=
  { s with halt := true, err := some ⟨kind, opcode, s.pc, info⟩ }

/-! ## Sprites and sequences of instructions -/

/-- R121: the pixel in column `px` of row `py` is one that DXYN toggles: some bit 7 - c of some row r of the sprite at I
is set and lands there, wrapping modulo 64 and 32. -/
def SpriteCovers (s : State) (x y n : Nibble) (px py : Nat) : Prop :=
  ∃ r < n.toNat, ∃ c < 8, (s.byte (s.i.toNat + r)).getLsbD (7 - c) = true ∧
    px = ((s.reg x).toNat % 64 + c) % 64 ∧ py = ((s.reg y).toNat % 32 + r) % 32

/-- Instructions executed one after another, whatever the words at PC. -/
def execAll : List Instr → State → Host.Outcome State Fault Refusal
  | [], s => .next s
  | i :: is, s =>
    match exec i s with
    | .next s' => execAll is s'
    | .fault r => .fault r
    | .refused r => .refused r

/-- Sequences in which every CALL has its RET after it, nested at most `d` deep; other instructions stand anywhere. -/
inductive Nested : Nat → List Instr → Prop where
  | done (d : Nat) : Nested d []
  | other {d : Nat} {i : Instr} {is : List Instr} (hc : ∀ nnn, i ≠ .call nnn) (hr : i ≠ .ret) (h : Nested d is) :
      Nested d (i :: is)
  | called {d : Nat} (nnn : Addr12) {body is : List Instr} (hb : Nested d body) (h : Nested (d + 1) is) :
      Nested (d + 1) (.call nnn :: (body ++ .ret :: is))

/-! ## Power states and safe runs -/

/-- The states of R300. -/
inductive PowerState where
  | running
  | awaitingKey (x : Nibble)
  | halted
  deriving DecidableEq, Repr

/-- Halted takes precedence: a halt request during a key wait halts (R290, R300). -/
def State.power (s : State) : PowerState :=
  if s.halt then .halted
  else
    match s.wait with
    | some x => .awaitingKey x
    | none => .running

/-- No fatal error is reported (R302). -/
def State.Safe (s : State) : Prop := s.err = none

/-- A run from `s` through these transactions reports no fatal error at its end; since a report stays until Reset
(R279), none was raised after the last Reset. -/
def SafeRun (ts : List Transaction) (s : State) : Prop :=
  ∃ t, transactAll ts s = .next t ∧ t.Safe

/-! ## The invariant -/

/-- What every transaction keeps: memory is in canonical form; PC is at most 0x10FE and every return address at most
0x1000 (R24, R25, R142); while a key is awaited the PC is one an instruction was fetched from (R81, R232); and a
reported error means a halted machine whose PC is the faulting instruction's (R271, R278). -/
structure State.Inv (s : State) : Prop where
  memory_canonical : Memory.wf s.unlisted s.mem
  pc_bounded : s.pc.toNat ≤ 0x10FE
  returns_bounded : ∀ j : Fin 16, s.stack[j].toNat ≤ 0x1000
  waiting_at_fetched : s.wait ≠ none → s.pc.toNat ≤ 0xFFE
  error_halted : ∀ e, s.err = some e → s.halt = true ∧ e.addr = s.pc

end Sys2Proof.Machine
end

