-- ==== Sys2Proof/Certificates/Slice0/Obligations.lean ====
section
/-! DEFINITION. The statements for the provers. An instruction's statement begins with its word as the spec encodes it
(R87, R88), says that `exec` answers a next state and what that state holds, and says what stays (`FrameBut`,
`SameRegistersBut`). Numbers are unbounded (R10). -/

open Sys2Proof Sys2Proof.Machine

/-! ## Encoding -/

/-- R82, R87, R88: every instruction is read back from its word, with every operand at every value. -/
def Obligations.DecodeOfEncodeIsIdentity : Prop :=
  ∀ i : Instr, decodeWord (encode i) = .ok i ∧ ∀ rest, decodeBytes (encodeBytes i ++ rest) = .ok (i, rest)

/-- R82, R87, R88: no bit of a decoded word is lost, the ignored Y of 8XY6 and 8XYE included; so the word ERR.opcode is
rebuilt from is the one fetched (log entry 20). -/
def Obligations.EncodeOfDecodedWordIsThatWord : Prop :=
  ∀ (op : Word) (i : Instr), decodeWord op = .ok i → encode i = op

/-- R88: a word decodes to an instruction exactly when `(op & mask) == match` for its row of the table of 34. -/
def Obligations.DecoderFollowsTheOpcodeTable : Prop :=
  opcodeTable.length = 34 ∧
  ∀ op : Word,
    (∃ i, decodeWord op = .ok i ∧ i.row ∈ opcodeTable ∧ op &&& i.row.mask = i.row.value) ∨
    (decodeWord op = .error (.invalidOpcode op) ∧ ∀ r ∈ opcodeTable, op &&& r.mask ≠ r.value)

/-- R97 (derived by the spec): no word matches two rows of the table. -/
def Obligations.OpcodeRowsAreDisjoint : Prop :=
  ∀ (op : Word) (j k : Fin 34), opcodeTable[j].covers op = true → opcodeTable[k].covers op = true → j = k

/-- R89 to R94: the valid words class by class, in plain arithmetic on the word's number. -/
def Obligations.ValidWordsClassByClass : Prop :=
  ∀ op : Word,
    (∃ i, decodeWord op = .ok i) ↔
      (op = 0x00E0 ∨ op = 0x00EE) ∨
      op.toNat / 0x1000 ∈ [0x1, 0x2, 0x3, 0x4, 0x6, 0x7, 0xA, 0xB, 0xC, 0xD] ∨
      (op.toNat / 0x1000 ∈ [0x5, 0x9] ∧ op.toNat % 0x10 = 0) ∨
      (op.toNat / 0x1000 = 0x8 ∧ op.toNat % 0x10 ∈ [0x0, 0x1, 0x2, 0x3, 0x4, 0x5, 0x6, 0x7, 0xE]) ∨
      (op.toNat / 0x1000 = 0xE ∧ op.toNat % 0x100 ∈ [0x9E, 0xA1]) ∨
      (op.toNat / 0x1000 = 0xF ∧
        op.toNat % 0x100 ∈ [0x07, 0x0A, 0x15, 0x18, 0x1E, 0x29, 0x33, 0x55, 0x65])

/-- R100 and the worked vectors: a few words written out, one of each format, decode to what they stand for, and one is
invalid. -/
def Obligations.SampleWordsDecode : Prop :=
  decodeWord 0b0000000011100000 = .ok .cls ∧
  decodeWord 0b0010001000000110 = .ok (.call 0x206) ∧
  decodeWord 0b0110101000101011 = .ok (.ldImm 0xA 0x2B) ∧
  decodeWord 0b1000000000010100 = .ok (.addReg 0x0 0x1) ∧
  decodeWord 0b1010001100000000 = .ok (.ldI 0x300) ∧
  decodeWord 0b1101000100100101 = .ok (.drw 0x1 0x2 0x5) ∧
  decodeWord 0b1110000110011110 = .ok (.skp 0x1) ∧
  decodeWord 0b1111001101100101 = .ok (.loadRegs 0x3) ∧
  decodeWord 0b0101000000000001 = .error (.invalidOpcode 0x5001)

/-! ## One Step -/

/-- R56, R81: the fetched word is the byte at PC times 256 plus the byte at PC + 1, at odd PCs too (R54). -/
def Obligations.FetchIsBigEndian : Prop :=
  ∀ s : State, s.pc.toNat ≤ 0xFFE →
    ∃ op, s.fetch = .ok op ∧ op.toNat = 256 * (s.byte s.pc.toNat).toNat + (s.byte (s.pc.toNat + 1)).toNat

/-- R80: when the machine is neither halted nor waiting and the two bytes at PC decode to an instruction, a Step is the
execution of that instruction at that state, with nothing added. -/
def Obligations.StepExecutesTheDecodedInstruction : Prop :=
  ∀ (s : State) (i : Instr), s.halt = false → s.wait = none → s.pc.toNat ≤ 0xFFE →
    decodeWord (joinBytes (s.byte s.pc.toNat) (s.byte (s.pc.toNat + 1))) = .ok i →
    step s = exec i s

/-- R280 (the spec's decision D18): a Step while halted or awaiting a key changes no state. -/
def Obligations.HaltedOrWaitingStepChangesNothing : Prop :=
  ∀ s : State, s.halt = true ∨ s.wait ≠ none → step s = .next s

/-- No Step of this model stops: every state has a next state (the model's choice, log entry 19; R271, R280). -/
def Obligations.EveryStepAnswersNext : Prop :=
  ∀ s : State, ∃ t, step s = .next t

/-- R81, R275 (the spec's decision D4): a fetch past 0xFFE halts with AddressOutOfRange; the report holds no opcode, the
PC, and PC or PC + 1, whichever is the lowest above 0xFFF; nothing else changes. -/
def Obligations.FetchBeyondMemoryHalts : Prop :=
  ∀ s : State, s.halt = false → s.wait = none → s.err = none →
    (0xFFF < s.pc.toNat → step s = .next (raised s .addressOutOfRange none (some s.pc.toNat))) ∧
    (s.pc.toNat = 0xFFF → step s = .next (raised s .addressOutOfRange none (some 0x1000)))

/-- R95, R272: a fetched word that matches no row of the table halts with InvalidOpcode, reporting the word and PC; PC
and every other state element stay. -/
def Obligations.InvalidOpcodeHaltsAndReports : Prop :=
  ∀ (s : State) (op : Word), s.halt = false → s.wait = none → s.err = none → s.fetch = .ok op →
    wellFormedWord op = false →
    step s = .next (raised s .invalidOpcode (some op) none)

/-- R270, R271, R277: whenever a Step writes ERR, the state is exactly the state before plus HALT and ERR, ERR.addr is
PC, and the report is that of the first check that fails: the fetch, the decoder, the instruction's own. -/
def Obligations.FatalErrorsArePreciseAndClassified : Prop :=
  ∀ s t : State, step s = .next t → t.err ≠ s.err →
    s.err = none ∧
    ((0xFFE < s.pc.toNat ∧ t = raised s .addressOutOfRange none (some (max s.pc.toNat 0x1000))) ∨
     (∃ op, s.fetch = .ok op ∧ wellFormedWord op = false ∧ t = raised s .invalidOpcode (some op) none) ∨
     (∃ op i kind info, s.fetch = .ok op ∧ decodeWord op = .ok i ∧ ownCheck i s = some (kind, info) ∧
        t = raised s kind (some op) info))

/-- R273 to R277: an instruction raises an error exactly when its own check fails, with the kind, word, PC and info of
R270 and no other effect; otherwise it completes and neither HALT nor ERR is written. -/
def Obligations.OwnCheckDecidesTheError : Prop :=
  ∀ (i : Instr) (s : State), s.err = none →
    (∀ kind info, ownCheck i s = some (kind, info) → exec i s = .next (raised s kind (some (encode i)) info)) ∧
    (ownCheck i s = none → ∃ t, exec i s = .next t ∧ t.halt = s.halt ∧ t.err = none)

/-! ## Display -/

/-- R120: 00E0 clears every pixel, sets REDRAW and advances PC by 2; nothing else changes. -/
def Obligations.ClearScreenClearsEveryPixel : Prop :=
  ∀ s : State,
    decodeWord 0x00E0 = .ok .cls ∧
    ∃ t, exec .cls s = .next t ∧ (∀ x y, t.pixel x y = false) ∧ t.redraw = true ∧ t.pc = s.pc + 2 ∧
      SameRegisters s t ∧ FrameBut [.framebuffer, .redrawFlag] s t

/-- R121 (bit order: the spec's decision D9, log entry 9; range: its decision D4): DXYN toggles exactly the pixels the
sprite covers, VF is 1 exactly when a pixel set before is clear after, REDRAW is set and PC advances by 2; nothing else
changes. N = 0 reads nothing and completes whatever I holds. -/
def Obligations.DrawTogglesCoveredPixelsAndFlagsCollision : Prop :=
  ∀ (x y n : Nibble) (s : State),
    decodeWord (0xD#4 ++ x ++ y ++ n) = .ok (.drw x y n) ∧
    (n.toNat = 0 ∨ s.i.toNat + n.toNat - 1 ≤ 0xFFF →
      ∃ t, exec (.drw x y n) s = .next t ∧
        (∀ px < 64, ∀ py < 32,
          (SpriteCovers s x y n px py → t.pixel px py = !s.pixel px py) ∧
          (¬ SpriteCovers s x y n px py → t.pixel px py = s.pixel px py)) ∧
        ((∃ px < 64, ∃ py < 32, s.pixel px py = true ∧ t.pixel px py = false) → t.reg 0xF = 1) ∧
        ((∀ px < 64, ∀ py < 32, s.pixel px py = true → t.pixel px py = true) → t.reg 0xF = 0) ∧
        t.redraw = true ∧ t.pc = s.pc + 2 ∧
        SameRegistersBut [0xF] s t ∧ FrameBut [.framebuffer, .redrawFlag] s t)

/-- R123 (derived by the spec, from §8): drawing one sprite twice at one place gives the framebuffer back; and if the
first draw met no collision, the second reports VF = 1 when the sprite has a set bit and VF = 0 when it has none. The
coordinates are read from registers other than VF, which the first draw overwrites. -/
def Obligations.DrawingTwiceRestoresTheScreen : Prop :=
  ∀ (x y n : Nibble) (s t u : State), x ≠ 0xF → y ≠ 0xF →
    (n.toNat = 0 ∨ s.i.toNat + n.toNat - 1 ≤ 0xFFF) →
    exec (.drw x y n) s = .next t → exec (.drw x y n) t = .next u →
    (∀ px py, u.pixel px py = s.pixel px py) ∧
    (t.reg 0xF = 0 →
      ((∃ r < n.toNat, s.byte (s.i.toNat + r) ≠ 0) → u.reg 0xF = 1) ∧
      ((∀ r < n.toNat, s.byte (s.i.toNat + r) = 0) → u.reg 0xF = 0))

/-! ## Control flow -/

/-- R140, R28, R29 (SP's values, the order of a pop and the slot that keeps its value: the spec's decision D3, log entry
5): 00EE sets PC to the entry STACK[SP] and lowers SP by one, the slot keeping its value; with an empty stack it raises
StackUnderflow. -/
def Obligations.ReturnPopsTheStack : Prop :=
  ∀ s : State,
    decodeWord 0x00EE = .ok .ret ∧
    (∀ top : Fin 16, s.sp = (top.val : Int) →
      ∃ t, exec .ret s = .next t ∧ t.pc = s.stack[top] ∧ t.sp = s.sp - 1 ∧ t.stack = s.stack ∧
        SameRegisters s t ∧ FrameBut [.returnStack] s t) ∧
    (s.sp = -1 → s.err = none → exec .ret s = .next (raised s .stackUnderflow (some 0x00EE) none))

/-- R141: 1NNN sets PC to NNN, with nothing added; nothing else changes. -/
def Obligations.JumpSetsPc : Prop :=
  ∀ (nnn : Addr12) (s : State),
    decodeWord (0x1#4 ++ nnn) = .ok (.jp nnn) ∧
    ∃ t, exec (.jp nnn) s = .next t ∧ t.pc.toNat = nnn.toNat ∧ SameRegisters s t ∧ FrameBut [] s t

/-- R142, R28, R29 (SP's values, the order of a push and the slots above the top: the spec's decision D3, log entry 5):
2NNN raises SP by one, stores PC + 2 in the new top slot and sets PC to NNN, no other slot changing; with 16 entries
pending it raises StackOverflow. -/
def Obligations.CallPushesTheReturnAddress : Prop :=
  ∀ (nnn : Addr12) (s : State),
    decodeWord (0x2#4 ++ nnn) = .ok (.call nnn) ∧
    (s.sp < 15 →
      ∃ t, exec (.call nnn) s = .next t ∧ t.pc.toNat = nnn.toNat ∧ t.sp = s.sp + 1 ∧
        (∀ j : Fin 16, (j.val : Int) = s.sp + 1 → t.stack[j].toNat = (s.pc.toNat + 2) % 2 ^ 16) ∧
        (∀ j : Fin 16, (j.val : Int) ≠ s.sp + 1 → t.stack[j] = s.stack[j]) ∧
        SameRegisters s t ∧ FrameBut [.returnStack] s t) ∧
    (s.sp = 15 → s.err = none →
      exec (.call nnn) s = .next (raised s .stackOverflow (some (0x2#4 ++ nnn)) none))

/-- R148 (derived by the spec, from §8): a CALL, then any body whose own calls and returns match, nested within the 16
levels, then RET, ends at the instruction after the CALL with the stack as it was below. -/
def Obligations.CallBodyReturnResumesAfterTheCall : Prop :=
  ∀ (d : Nat) (nnn : Addr12) (body : List Instr) (s : State), Nested d body → s.sp + 2 + d ≤ 16 →
    ∃ t, execAll (.call nnn :: (body ++ [.ret])) s = .next t ∧ t.pc = s.pc + 2 ∧ t.sp = s.sp ∧
      ∀ j : Fin 16, (j.val : Int) ≤ s.sp → t.stack[j] = s.stack[j]

/-- R143, R144: 3XNN advances PC by 4 when V[X] = NN and by 2 otherwise, 4XNN the other way round; nothing else
changes. -/
def Obligations.ImmediateSkips : Prop :=
  ∀ (x : Nibble) (nn : Byte) (s : State),
    decodeWord (0x3#4 ++ x ++ nn) = .ok (.seImm x nn) ∧
    decodeWord (0x4#4 ++ x ++ nn) = .ok (.sneImm x nn) ∧
    (∃ t, exec (.seImm x nn) s = .next t ∧ (s.reg x = nn → t.pc = s.pc + 4) ∧ (s.reg x ≠ nn → t.pc = s.pc + 2) ∧
      SameRegisters s t ∧ FrameBut [] s t) ∧
    (∃ t, exec (.sneImm x nn) s = .next t ∧ (s.reg x ≠ nn → t.pc = s.pc + 4) ∧ (s.reg x = nn → t.pc = s.pc + 2) ∧
      SameRegisters s t ∧ FrameBut [] s t)

/-- R145, R146: 5XY0 advances PC by 4 when V[X] = V[Y] and by 2 otherwise, 9XY0 the other way round; with any other low
nibble both words are invalid opcodes; nothing else changes. -/
def Obligations.RegisterSkips : Prop :=
  ∀ (x y : Nibble) (s : State),
    decodeWord (0x5#4 ++ x ++ y ++ 0x0#4) = .ok (.seReg x y) ∧
    decodeWord (0x9#4 ++ x ++ y ++ 0x0#4) = .ok (.sneReg x y) ∧
    (∀ n : Nibble, n ≠ 0 →
      decodeWord (0x5#4 ++ x ++ y ++ n) = .error (.invalidOpcode (0x5#4 ++ x ++ y ++ n)) ∧
      decodeWord (0x9#4 ++ x ++ y ++ n) = .error (.invalidOpcode (0x9#4 ++ x ++ y ++ n))) ∧
    (∃ t, exec (.seReg x y) s = .next t ∧ (s.reg x = s.reg y → t.pc = s.pc + 4) ∧
      (s.reg x ≠ s.reg y → t.pc = s.pc + 2) ∧ SameRegisters s t ∧ FrameBut [] s t) ∧
    (∃ t, exec (.sneReg x y) s = .next t ∧ (s.reg x ≠ s.reg y → t.pc = s.pc + 4) ∧
      (s.reg x = s.reg y → t.pc = s.pc + 2) ∧ SameRegisters s t ∧ FrameBut [] s t)

/-- R147 (the spec's decision D10, log entry 10): BNNN sets PC to NNN + V0, not reduced to 12 bits; nothing else
changes. -/
def Obligations.ComputedJumpAddsV0 : Prop :=
  ∀ (nnn : Addr12) (s : State),
    decodeWord (0xB#4 ++ nnn) = .ok (.jpV0 nnn) ∧
    ∃ t, exec (.jpV0 nnn) s = .next t ∧ t.pc.toNat = nnn.toNat + (s.reg 0x0).toNat ∧ SameRegisters s t ∧
      FrameBut [] s t

/-! ## ALU -/

/-- R170, R171: 6XNN writes NN, 7XNN the sum modulo 256, with no flag: no register but V[X] changes, VF included unless
X = 0xF; PC advances by 2. -/
def Obligations.ImmediateLoadAndAdd : Prop :=
  ∀ (x : Nibble) (nn : Byte) (s : State),
    decodeWord (0x6#4 ++ x ++ nn) = .ok (.ldImm x nn) ∧
    decodeWord (0x7#4 ++ x ++ nn) = .ok (.addImm x nn) ∧
    (∃ t, exec (.ldImm x nn) s = .next t ∧ t.reg x = nn ∧ t.pc = s.pc + 2 ∧ SameRegistersBut [x] s t ∧
      FrameBut [] s t) ∧
    (∃ t, exec (.addImm x nn) s = .next t ∧ (t.reg x).toNat = ((s.reg x).toNat + nn.toNat) % 2 ^ 8 ∧
      t.pc = s.pc + 2 ∧ SameRegistersBut [x] s t ∧ FrameBut [] s t)

/-- R172 to R175: 8XY0 copies V[Y], 8XY1, 8XY2 and 8XY3 combine V[X] and V[Y] bit by bit; no register but V[X] changes,
so VF stays unless X = 0xF; PC advances by 2. -/
def Obligations.CopyAndLogicLeaveTheFlag : Prop :=
  ∀ (x y : Nibble) (s : State),
    decodeWord (0x8#4 ++ x ++ y ++ 0x0#4) = .ok (.ldReg x y) ∧
    decodeWord (0x8#4 ++ x ++ y ++ 0x1#4) = .ok (.orReg x y) ∧
    decodeWord (0x8#4 ++ x ++ y ++ 0x2#4) = .ok (.andReg x y) ∧
    decodeWord (0x8#4 ++ x ++ y ++ 0x3#4) = .ok (.xorReg x y) ∧
    (∃ t, exec (.ldReg x y) s = .next t ∧ t.reg x = s.reg y ∧ t.pc = s.pc + 2 ∧ SameRegistersBut [x] s t ∧
      FrameBut [] s t) ∧
    (∃ t, exec (.orReg x y) s = .next t ∧
      (∀ b < 8, (t.reg x).getLsbD b = ((s.reg x).getLsbD b || (s.reg y).getLsbD b)) ∧ t.pc = s.pc + 2 ∧
      SameRegistersBut [x] s t ∧ FrameBut [] s t) ∧
    (∃ t, exec (.andReg x y) s = .next t ∧
      (∀ b < 8, (t.reg x).getLsbD b = ((s.reg x).getLsbD b && (s.reg y).getLsbD b)) ∧ t.pc = s.pc + 2 ∧
      SameRegistersBut [x] s t ∧ FrameBut [] s t) ∧
    (∃ t, exec (.xorReg x y) s = .next t ∧
      (∀ b < 8, (t.reg x).getLsbD b = ((s.reg x).getLsbD b ^^ (s.reg y).getLsbD b)) ∧ t.pc = s.pc + 2 ∧
      SameRegistersBut [x] s t ∧ FrameBut [] s t)

/-- R176: 8XY4 writes the sum modulo 256 to V[X] (lost when X = 0xF), then the carry to VF; both operands are read
first; PC advances by 2. -/
def Obligations.AddWritesSumThenCarry : Prop :=
  ∀ (x y : Nibble) (s : State),
    decodeWord (0x8#4 ++ x ++ y ++ 0x4#4) = .ok (.addReg x y) ∧
    ∃ t, exec (.addReg x y) s = .next t ∧
      (x ≠ 0xF → (t.reg x).toNat = ((s.reg x).toNat + (s.reg y).toNat) % 2 ^ 8) ∧
      (t.reg 0xF = if 255 < (s.reg x).toNat + (s.reg y).toNat then 1 else 0) ∧
      t.pc = s.pc + 2 ∧ SameRegistersBut [x, 0xF] s t ∧ FrameBut [] s t

/-- R177, R179: 8XY5 writes V[X] - V[Y] modulo 256, 8XY7 V[Y] - V[X], then NOT borrow to VF, equality giving 1; PC
advances by 2. -/
def Obligations.SubtractWritesDifferenceThenNotBorrow : Prop :=
  ∀ (x y : Nibble) (s : State),
    decodeWord (0x8#4 ++ x ++ y ++ 0x5#4) = .ok (.subReg x y) ∧
    decodeWord (0x8#4 ++ x ++ y ++ 0x7#4) = .ok (.subn x y) ∧
    (∃ t, exec (.subReg x y) s = .next t ∧
      (x ≠ 0xF → ((t.reg x).toNat : Int) = ((s.reg x).toNat - (s.reg y).toNat : Int) % 2 ^ 8) ∧
      (t.reg 0xF = if (s.reg x).toNat < (s.reg y).toNat then 0 else 1) ∧
      t.pc = s.pc + 2 ∧ SameRegistersBut [x, 0xF] s t ∧ FrameBut [] s t) ∧
    (∃ t, exec (.subn x y) s = .next t ∧
      (x ≠ 0xF → ((t.reg x).toNat : Int) = ((s.reg y).toNat - (s.reg x).toNat : Int) % 2 ^ 8) ∧
      (t.reg 0xF = if (s.reg y).toNat < (s.reg x).toNat then 0 else 1) ∧
      t.pc = s.pc + 2 ∧ SameRegistersBut [x, 0xF] s t ∧ FrameBut [] s t)

/-- R178, R180, R96: 8XY6 halves V[X] and puts the old bit 0 in VF, 8XYE doubles it modulo 256 and puts the old bit 7
in VF; V[Y] is neither read nor written, whatever Y; PC advances by 2. -/
def Obligations.ShiftsMoveOneBitToTheFlag : Prop :=
  ∀ (x y : Nibble) (s : State),
    decodeWord (0x8#4 ++ x ++ y ++ 0x6#4) = .ok (.shr x y) ∧
    decodeWord (0x8#4 ++ x ++ y ++ 0xE#4) = .ok (.shl x y) ∧
    (∃ t, exec (.shr x y) s = .next t ∧
      (x ≠ 0xF → (t.reg x).toNat = (s.reg x).toNat / 2) ∧ (t.reg 0xF).toNat = (s.reg x).toNat % 2 ∧
      t.pc = s.pc + 2 ∧ SameRegistersBut [x, 0xF] s t ∧ FrameBut [] s t) ∧
    (∃ t, exec (.shl x y) s = .next t ∧
      (x ≠ 0xF → (t.reg x).toNat = (s.reg x).toNat * 2 % 2 ^ 8) ∧ (t.reg 0xF).toNat = (s.reg x).toNat / 128 ∧
      t.pc = s.pc + 2 ∧ SameRegistersBut [x, 0xF] s t ∧ FrameBut [] s t)

/-- R181, R186 (the draw is a free value, log entry 2): CXNN writes NN masked with the byte drawn, whatever that byte
is; so bits of V[X] where NN has 0 are 0. One byte is drawn; PC advances by 2; nothing else changes. -/
def Obligations.RandomIsMaskedByTheImmediate : Prop :=
  ∀ (x : Nibble) (nn : Byte) (s : State),
    decodeWord (0xC#4 ++ x ++ nn) = .ok (.rnd x nn) ∧
    ∃ t, exec (.rnd x nn) s = .next t ∧ (∃ r : Byte, r = Config.rng s.draws ∧ t.reg x = nn &&& r) ∧
      (∀ b < 8, nn.getLsbD b = false → (t.reg x).getLsbD b = false) ∧ t.draws = s.draws + 1 ∧
      t.pc = s.pc + 2 ∧ SameRegistersBut [x] s t ∧ FrameBut [.randomIndex] s t

/-! ## Index register and memory -/

/-- R200: ANNN sets I to NNN and advances PC by 2; nothing else changes. -/
def Obligations.LoadIndexSetsI : Prop :=
  ∀ (nnn : Addr12) (s : State),
    decodeWord (0xA#4 ++ nnn) = .ok (.ldI nnn) ∧
    ∃ t, exec (.ldI nnn) s = .next t ∧ t.i.toNat = nnn.toNat ∧ t.pc = s.pc + 2 ∧ SameRegisters s t ∧
      FrameBut [.index] s t

/-- R201 (the spec's decision D11, log entry 11): FX1E adds V[X], as it was before VF is written, to I modulo 2^16; VF
becomes 1 when the new I exceeds 0xFFF and 0 otherwise; PC advances by 2. -/
def Obligations.AddToIndexFlagsTheRange : Prop :=
  ∀ (x : Nibble) (s : State),
    decodeWord (0xF#4 ++ x ++ 0x1E#8) = .ok (.addI x) ∧
    ∃ t, exec (.addI x) s = .next t ∧ t.i.toNat = (s.i.toNat + (s.reg x).toNat) % 2 ^ 16 ∧
      (t.reg 0xF = if 0xFFF < (s.i.toNat + (s.reg x).toNat) % 2 ^ 16 then 1 else 0) ∧
      t.pc = s.pc + 2 ∧ SameRegistersBut [0xF] s t ∧ FrameBut [.index] s t

/-- R202 (no masking: derived by the spec): FX29 sets I to V[X] * 5 and advances PC by 2; nothing else changes. -/
def Obligations.FontAddressIsFiveTimesVx : Prop :=
  ∀ (x : Nibble) (s : State),
    decodeWord (0xF#4 ++ x ++ 0x29#8) = .ok (.ldF x) ∧
    ∃ t, exec (.ldF x) s = .next t ∧ t.i.toNat = (s.reg x).toNat * 5 ∧ t.pc = s.pc + 2 ∧ SameRegisters s t ∧
      FrameBut [.index] s t

/-- R203, R206 (range: the spec's decision D4; I unchanged: its decision D12): FX33 stores the decimal digits of V[X] at
I, I + 1, I + 2, and every other byte of memory, I and the registers stay; when I + 2 exceeds 0xFFF it raises
AddressOutOfRange and stores nothing. -/
def Obligations.BcdStoreWritesThreeDigits : Prop :=
  ∀ (x : Nibble) (s : State),
    decodeWord (0xF#4 ++ x ++ 0x33#8) = .ok (.ldB x) ∧
    (s.i.toNat + 2 ≤ 0xFFF →
      ∃ t, exec (.ldB x) s = .next t ∧
        (t.byte s.i.toNat).toNat = (s.reg x).toNat / 100 ∧
        (t.byte (s.i.toNat + 1)).toNat = (s.reg x).toNat / 10 % 10 ∧
        (t.byte (s.i.toNat + 2)).toNat = (s.reg x).toNat % 10 ∧
        (∀ a, a < s.i.toNat ∨ s.i.toNat + 2 < a → t.byte a = s.byte a) ∧
        t.pc = s.pc + 2 ∧ SameRegisters s t ∧ FrameBut [.memory] s t) ∧
    (0xFFF < s.i.toNat + 2 → s.err = none →
      exec (.ldB x) s = .next
        (raised s .addressOutOfRange (some (0xF#4 ++ x ++ 0x33#8)) (some (max s.i.toNat 0x1000))))

/-- R204, R206 (the spec's decisions D4 and D12): FX55 stores V0 .. V[X] at I, I + 1, .., I + X, and every other byte of
memory, I and the registers stay; when I + X exceeds 0xFFF it raises AddressOutOfRange and stores nothing. -/
def Obligations.RegisterDumpStoresV0ToVx : Prop :=
  ∀ (x : Nibble) (s : State),
    decodeWord (0xF#4 ++ x ++ 0x55#8) = .ok (.storeRegs x) ∧
    (s.i.toNat + x.toNat ≤ 0xFFF →
      ∃ t, exec (.storeRegs x) s = .next t ∧
        (∀ r : Nibble, r.toNat ≤ x.toNat → t.byte (s.i.toNat + r.toNat) = s.reg r) ∧
        (∀ a, a < s.i.toNat ∨ s.i.toNat + x.toNat < a → t.byte a = s.byte a) ∧
        t.pc = s.pc + 2 ∧ SameRegisters s t ∧ FrameBut [.memory] s t) ∧
    (0xFFF < s.i.toNat + x.toNat → s.err = none →
      exec (.storeRegs x) s = .next
        (raised s .addressOutOfRange (some (0xF#4 ++ x ++ 0x55#8)) (some (max s.i.toNat 0x1000))))

/-- R205, R206 (the spec's decisions D4 and D12): FX65 loads V0 .. V[X] from I, I + 1, .., I + X; the other registers, I
and every byte of memory stay; when I + X exceeds 0xFFF it raises AddressOutOfRange and loads nothing. -/
def Obligations.RegisterLoadReadsV0ToVx : Prop :=
  ∀ (x : Nibble) (s : State),
    decodeWord (0xF#4 ++ x ++ 0x65#8) = .ok (.loadRegs x) ∧
    (s.i.toNat + x.toNat ≤ 0xFFF →
      ∃ t, exec (.loadRegs x) s = .next t ∧
        (∀ r : Nibble, r.toNat ≤ x.toNat → t.reg r = s.byte (s.i.toNat + r.toNat)) ∧
        (∀ r : Nibble, x.toNat < r.toNat → t.reg r = s.reg r) ∧
        t.pc = s.pc + 2 ∧ FrameBut [] s t) ∧
    (0xFFF < s.i.toNat + x.toNat → s.err = none →
      exec (.loadRegs x) s = .next
        (raised s .addressOutOfRange (some (0xF#4 ++ x ++ 0x65#8)) (some (max s.i.toNat 0x1000))))

/-- R204, R205, R206: a dump, then a load from the same I into any other register contents, gives V0 .. V[X] back. -/
def Obligations.DumpThenLoadRestoresRegisters : Prop :=
  ∀ (x : Nibble) (s t : State) (v : Vector Byte 16), s.i.toNat + x.toNat ≤ 0xFFF →
    exec (.storeRegs x) s = .next t →
    ∃ u, exec (.loadRegs x) { t with v := v } = .next u ∧ ∀ r : Nibble, r.toNat ≤ x.toNat → u.reg r = s.reg r

/-- R64, R321 (the spec's decision D7, log entry 8): bytes FX55 stores at the next instruction's address are the word the
next fetch reads. -/
def Obligations.StoredBytesAreFetchedNext : Prop :=
  ∀ (x : Nibble) (s t : State), 1 ≤ x.toNat → s.pc.toNat + 3 ≤ 0xFFF → s.i = s.pc + 2 →
    s.i.toNat + x.toNat ≤ 0xFFF → exec (.storeRegs x) s = .next t →
    t.fetch = .ok (joinBytes (s.reg 0x0) (s.reg 0x1))

/-! ## Keypad and timers -/

/-- R230, R231 (range: the spec's decision D13, log entry 13): with V[X] at most 0xF, EX9E advances PC by 4 when that key
is pressed and by 2 otherwise, EXA1 the other way round, and nothing else changes; with V[X] above 0xF both raise
KeyIndexOutOfRange. -/
def Obligations.KeySkipsReadTheLatch : Prop :=
  ∀ (x : Nibble) (s : State),
    decodeWord (0xE#4 ++ x ++ 0x9E#8) = .ok (.skp x) ∧
    decodeWord (0xE#4 ++ x ++ 0xA1#8) = .ok (.sknp x) ∧
    (∀ k : Nibble, (s.reg x).toNat = k.toNat →
      (∃ t, exec (.skp x) s = .next t ∧ (s.keyPressed k = true → t.pc = s.pc + 4) ∧
        (s.keyPressed k = false → t.pc = s.pc + 2) ∧ SameRegisters s t ∧ FrameBut [] s t) ∧
      (∃ t, exec (.sknp x) s = .next t ∧ (s.keyPressed k = false → t.pc = s.pc + 4) ∧
        (s.keyPressed k = true → t.pc = s.pc + 2) ∧ SameRegisters s t ∧ FrameBut [] s t)) ∧
    (0xF < (s.reg x).toNat → s.err = none →
      exec (.skp x) s = .next
        (raised s .keyIndexOutOfRange (some (0xE#4 ++ x ++ 0x9E#8)) (some (s.reg x).toNat)) ∧
      exec (.sknp x) s = .next
        (raised s .keyIndexOutOfRange (some (0xE#4 ++ x ++ 0xA1#8)) (some (s.reg x).toNat)))

/-- R232 (a held key does not count: the spec's decision D14, log entry 14): the Step of FX0A sets WAIT to await(X) and
changes nothing else, PC and V[X] included, whatever keys are held. -/
def Obligations.KeyWaitSetsWaitOnly : Prop :=
  ∀ (x : Nibble) (s : State),
    decodeWord (0xF#4 ++ x ++ 0x0A#8) = .ok (.ldVxK x) ∧
    ∃ t, exec (.ldVxK x) s = .next t ∧ t.wait = some x ∧ t.pc = s.pc ∧ SameRegisters s t ∧
      FrameBut [.waitState] s t

/-- R232, R280, R285, R288 and §8 (the spec's decisions D14 and D18): while a key is awaited any number of Steps, Ticks,
KeyUps and ClearRedraws leaves PC, the registers and WAIT as they are, with DT and ST counted down by the Ticks; the
next KeyDown then stores its code in V[X], advances PC by 2 and ends the wait. -/
def Obligations.KeyWaitBlocksUntilTheNextKeyDown : Prop :=
  ∀ (ts : List Transaction) (x k : Nibble) (s : State),
    (∀ t ∈ ts, t = .step ∨ t = .tick ∨ (∃ j, t = .keyUp j) ∨ t = .clearRedraw) →
    s.halt = false → s.wait = some x →
    ∃ t u, transactAll ts s = .next t ∧ t.wait = some x ∧ t.pc = s.pc ∧ SameRegisters s t ∧
      t.dt.toNat = s.dt.toNat - ts.count .tick ∧ t.st.toNat = s.st.toNat - ts.count .tick ∧
      transact (.keyDown k) t = .next u ∧ (u.reg x).toNat = k.toNat ∧ u.pc = s.pc + 2 ∧ u.wait = none ∧
      SameRegistersBut [x] s u

/-- R250, R251, R252: FX07 copies DT to V[X], FX15 copies V[X] to DT, FX18 copies V[X] to ST; PC advances by 2 and
nothing else changes. -/
def Obligations.TimerInstructionsCopy : Prop :=
  ∀ (x : Nibble) (s : State),
    decodeWord (0xF#4 ++ x ++ 0x07#8) = .ok (.ldVxDt x) ∧
    decodeWord (0xF#4 ++ x ++ 0x15#8) = .ok (.ldDtVx x) ∧
    decodeWord (0xF#4 ++ x ++ 0x18#8) = .ok (.ldStVx x) ∧
    (∃ t, exec (.ldVxDt x) s = .next t ∧ t.reg x = s.dt ∧ t.pc = s.pc + 2 ∧ SameRegistersBut [x] s t ∧
      FrameBut [] s t) ∧
    (∃ t, exec (.ldDtVx x) s = .next t ∧ t.dt = s.reg x ∧ t.pc = s.pc + 2 ∧ SameRegisters s t ∧
      FrameBut [.delayTimer] s t) ∧
    (∃ t, exec (.ldStVx x) s = .next t ∧ t.st = s.reg x ∧ t.pc = s.pc + 2 ∧ SameRegisters s t ∧
      FrameBut [.soundTimer] s t)

/-! ## Host transactions -/

/-- R285 (nothing while halted: the spec's decision D18, log entry 16): Tick lowers DT and ST by one, neither below 0,
waiting or not, and changes nothing else; while halted it changes nothing. -/
def Obligations.TickCountsDownToZero : Prop :=
  ∀ s : State,
    (s.halt = false →
      ∃ t, transact .tick s = .next t ∧ t.dt.toNat = s.dt.toNat - 1 ∧ t.st.toNat = s.st.toNat - 1 ∧
        t.pc = s.pc ∧ SameRegisters s t ∧ FrameBut [.delayTimer, .soundTimer] s t) ∧
    (s.halt = true → transact .tick s = .next s)

/-- R288 (latch only while halted: the spec's decision D18): KeyDown sets its latch bit; if an FX0A is pending and the
machine is not halted, V[x] takes the key code, PC advances by 2 and WAIT becomes none; otherwise nothing else
changes. -/
def Obligations.KeyDownSetsTheLatchAndCompletesTheWait : Prop :=
  ∀ (k : Nibble) (s : State),
    ∃ t, transact (.keyDown k) s = .next t ∧ t.keyPressed k = true ∧
      (∀ j, j ≠ k → t.keyPressed j = s.keyPressed j) ∧
      (∀ x, s.halt = false → s.wait = some x →
        (t.reg x).toNat = k.toNat ∧ t.pc = s.pc + 2 ∧ t.wait = none ∧ SameRegistersBut [x] s t ∧
        FrameBut [.keypad, .waitState] s t) ∧
      (s.halt = true ∨ s.wait = none → t.pc = s.pc ∧ SameRegisters s t ∧ FrameBut [.keypad] s t)

/-- R289: KeyUp clears its latch bit and changes nothing else, whether or not WAIT is set or HALT = 1. -/
def Obligations.KeyUpClearsTheLatchBitOnly : Prop :=
  ∀ (k : Nibble) (s : State),
    ∃ t, transact (.keyUp k) s = .next t ∧ t.keyPressed k = false ∧
      (∀ j, j ≠ k → t.keyPressed j = s.keyPressed j) ∧ t.pc = s.pc ∧ SameRegisters s t ∧ FrameBut [.keypad] s t

/-- R294: ClearRedraw clears REDRAW and changes nothing else. -/
def Obligations.ClearRedrawClearsTheFlagOnly : Prop :=
  ∀ s : State, ∃ t, transact .clearRedraw s = .next t ∧ t.redraw = false ∧ t.pc = s.pc ∧ SameRegisters s t ∧
    FrameBut [.redrawFlag] s t

/-- R290 (the spec's decision D20): HaltRequest sets HALT and changes nothing else; a request during a key wait leaves
PC at the FX0A and WAIT as it is. -/
def Obligations.HaltRequestSetsHaltOnly : Prop :=
  ∀ s : State, ∃ t, transact .haltRequest s = .next t ∧ t.halt = true ∧ t.pc = s.pc ∧ SameRegisters s t ∧
    FrameBut [.haltFlag] s t

/-- R316, R317, R318 (in every state, after Steps and while halted too: the spec's decision D27, log entry 17): a program
of at most 0xE00 bytes is copied to memory from 0x200 and nothing else changes; a longer one is refused with LoadError
and the state is as it was. -/
def Obligations.LoadProgramCopiesOrRefuses : Prop :=
  ∀ (bytes : List Byte) (s : State),
    (bytes.length ≤ 0xE00 →
      (s.loadProgram bytes).1 = .ok ∧
      ∃ t, transact (.loadProgram bytes) s = .next t ∧
        (∀ k < bytes.length, t.byte (0x200 + k) = bytes.getD k 0) ∧
        (∀ a, a < 0x200 ∨ 0x200 + bytes.length ≤ a → t.byte a = s.byte a) ∧
        t.pc = s.pc ∧ SameRegisters s t ∧ FrameBut [.memory] s t) ∧
    (0xE00 < bytes.length → s.loadProgram bytes = (.loadError, s) ∧ transact (.loadProgram bytes) s = .next s)

/-- R39, R310, R311 (values of memory above the font, REDRAW, HALT, WAIT and ERR: the spec's decisions D25 and D26, log
entry 4): Reset gives every element its value whatever the state before, halted ones included, memory the parameter
FONT below 0x050 and 0 above; a second Reset changes nothing. -/
def Obligations.ResetRestoresEveryElement : Prop :=
  ∀ s : State, ∃ t, transact .reset s = .next t ∧
    (∀ r, t.reg r = 0) ∧ t.i = 0 ∧ t.pc = 0x200 ∧ t.sp = -1 ∧ (∀ j : Fin 16, t.stack[j] = 0) ∧ t.dt = 0 ∧ t.st = 0 ∧
    (∀ x y, t.pixel x y = false) ∧ (∀ k, t.keyPressed k = false) ∧
    (∀ a : Fin 80, t.byte a.val = s.font[a]) ∧ (∀ a, 80 ≤ a → t.byte a = 0) ∧
    t.redraw = false ∧ t.halt = false ∧ t.wait = none ∧ t.err = none ∧ transact .reset t = .next t

/-- R279, R280, R285, R288, R289, R302 (LoadProgram while halted: R318, log entry 17): from a halted state no sequence of
transactions without Reset runs an instruction: HALT stays, and so do PC, the registers and every part but memory (which
LoadProgram may write), the keypad latch and REDRAW. -/
def Obligations.HaltIsTerminalUntilReset : Prop :=
  ∀ (ts : List Transaction) (s : State), s.halt = true → .reset ∉ ts →
    ∃ t, transactAll ts s = .next t ∧ t.pc = s.pc ∧ SameRegisters s t ∧
      FrameBut [.memory, .keypad, .redrawFlag] s t ∧
      ((∀ bytes, .loadProgram bytes ∉ ts) → FrameBut [.keypad, .redrawFlag] s t)

/-! ## Rules of the whole machine -/

/-- R22, R26, R27, R30, R31 to R33, R51, R122, R206, R233 (that FX33, FX55 and FX65 leave I unchanged: the spec's decision
D12, log entry 12): the frame of every instruction. Whatever `exec` answers, only the registers of R22 and the parts the
rules name for that instruction differ; no instruction writes the keypad latch or clears REDRAW. Which bytes of memory
FX33 and FX55 leave unchanged is said by `BcdStoreWritesThreeDigits` and `RegisterDumpStoresV0ToVx`. -/
def Obligations.FrameOfEveryInstruction : Prop :=
  ∀ (i : Instr) (s t : State), exec i s = .next t →
    SameRegistersBut (registerWrites i) s t ∧ FrameBut (partWrites i) s t ∧ (s.redraw = true → t.redraw = true)

/-- R30, R32, R41: nothing reads ST or REDRAW: two states that differ in these alone step to states that differ in these
alone. -/
def Obligations.StepIgnoresSoundTimerAndRedraw : Prop :=
  ∀ (s : State) (b : Byte) (f : Bool), ∃ t t', step s = .next t ∧
    step { s with st := b, redraw := f } = .next t' ∧ t' = { t with st := t'.st, redraw := t'.redraw }

/-- R39, R310: the invariant holds in the state after Reset. -/
def Obligations.InvariantHoldsAtReset : Prop := State.reset.Inv

/-- R24, R25, R50, R271, R278: every Step keeps the invariant: memory canonical, PC at most 0x10FE, return addresses at
most 0x1000, a waiting machine at a fetched instruction, an error report only in a halted machine at its PC. -/
def Obligations.EveryStepKeepsTheInvariant : Prop :=
  ∀ s t : State, s.Inv → step s = .next t → t.Inv

/-- R16, R25, R287: from any state of the invariant every sequence of transactions, in any interleaving, completes and
keeps it. -/
def Obligations.EveryRunKeepsTheInvariant : Prop :=
  ∀ (ts : List Transaction) (s : State), s.Inv → ∃ t, transactAll ts s = .next t ∧ t.Inv

/-- R300 (derived by the spec): how a power state is left. Running is left by FX0A to await its key, by a fatal error of a
Step or by HaltRequest; awaiting by KeyDown to running, by HaltRequest to halted or by Reset; halted by Reset alone. -/
def Obligations.PowerStatesChangeOnlyAsListed : Prop :=
  ∀ (x : Transaction) (s t : State), transact x s = .next t → t.power ≠ s.power →
    (s.power = .running →
      (x = .step ∧ ∃ op r, s.fetch = .ok op ∧ decodeWord op = .ok (.ldVxK r) ∧ t.power = .awaitingKey r) ∨
      (x = .step ∧ t.power = .halted ∧ t.err ≠ none) ∨
      (x = .haltRequest ∧ t.power = .halted)) ∧
    (∀ r, s.power = .awaitingKey r →
      ((∃ k, x = .keyDown k) ∧ t.power = .running) ∨ (x = .haltRequest ∧ t.power = .halted) ∨
      (x = .reset ∧ t.power = .running)) ∧
    (s.power = .halted → x = .reset ∧ t.power = .running)

/-- The canonical form of memory: two states in it with the same FONT whose bytes all read the same hold the same memory
(the model's form, log entry 22; R50). -/
def Obligations.CanonicalMemoriesWithEqualBytesAreEqual : Prop :=
  ∀ s t : State, s.font = t.font → Memory.wf s.unlisted s.mem → Memory.wf t.unlisted t.mem →
    (∀ a, a ≤ 0xFFF → s.byte a = t.byte a) → s.mem = t.mem

/-- The loading of one word (the model's own, log entry 18): from any state the next Step is the execution of the
instruction placed, and no other byte of memory is touched. -/
def Obligations.PlacedWordIsTheNextInstruction : Prop :=
  ∀ (s : State) (op : Word) (i : Instr), decodeWord op = .ok i →
    step (s.withFetchWord 16 op.toNat) = exec i (s.withFetchWord 16 op.toNat) ∧
    SameRegisters s (s.withFetchWord 16 op.toNat) ∧
    FrameBut [.memory, .haltFlag, .waitState] s (s.withFetchWord 16 op.toNat) ∧
    (s.pc.toNat ≤ 0xFFE → (s.withFetchWord 16 op.toNat).pc = s.pc) ∧
    ∀ a, a ≠ (s.withFetchWord 16 op.toNat).pc.toNat → a ≠ (s.withFetchWord 16 op.toNat).pc.toNat + 1 →
      (s.withFetchWord 16 op.toNat).byte a = s.byte a
end

