-- ==== Sys2Proof/Laws/Decode.lean ====
section
/-! SUPPORT. The fields of a word in each format, the word its fields make, its bytes, and what the table's masks keep of
it. -/

namespace Sys2Proof

@[simp] theorem fieldClass_formatXYN (c x y n : Nibble) : fieldClass (formatXYN c x y n) = c := by
  ext k hk
  simp [fieldClass, formatXYN]
  grind

@[simp] theorem fieldX_formatXYN (c x y n : Nibble) : fieldX (formatXYN c x y n) = x := by
  ext k hk
  simp [fieldX, formatXYN]
  grind

@[simp] theorem fieldY_formatXYN (c x y n : Nibble) : fieldY (formatXYN c x y n) = y := by
  ext k hk
  simp [fieldY, formatXYN]
  grind

@[simp] theorem fieldN_formatXYN (c x y n : Nibble) : fieldN (formatXYN c x y n) = n := by
  ext k hk
  simp [fieldN, formatXYN]
  grind

@[simp] theorem fieldClass_formatXK (c x : Nibble) (nn : Byte) : fieldClass (formatXK c x nn) = c := by
  ext k hk
  simp [fieldClass, formatXK]
  grind

@[simp] theorem fieldX_formatXK (c x : Nibble) (nn : Byte) : fieldX (formatXK c x nn) = x := by
  ext k hk
  simp [fieldX, formatXK]
  grind

@[simp] theorem fieldNN_formatXK (c x : Nibble) (nn : Byte) : fieldNN (formatXK c x nn) = nn := by
  ext k hk
  simp [fieldNN, formatXK]
  grind

@[simp] theorem fieldClass_formatA (c : Nibble) (nnn : Addr12) : fieldClass (formatA c nnn) = c := by
  ext k hk
  simp [fieldClass, formatA]
  grind

@[simp] theorem fieldNNN_formatA (c : Nibble) (nnn : Addr12) : fieldNNN (formatA c nnn) = nnn := by
  ext k hk
  simp [fieldNNN, formatA]
  grind

@[simp] theorem formatXYN_fields (op : Word) : formatXYN (fieldClass op) (fieldX op) (fieldY op) (fieldN op) = op := by
  ext k hk
  simp [fieldClass, fieldX, fieldY, fieldN, formatXYN]
  grind

@[simp] theorem formatXK_fields (op : Word) : formatXK (fieldClass op) (fieldX op) (fieldNN op) = op := by
  ext k hk
  simp [fieldClass, fieldX, fieldNN, formatXK]
  grind

@[simp] theorem formatA_fields (op : Word) : formatA (fieldClass op) (fieldNNN op) = op := by
  ext k hk
  simp [fieldClass, fieldNNN, formatA]
  grind

@[simp] theorem joinBytes_highByte_lowByte (op : Word) : joinBytes (highByte op) (lowByte op) = op := by
  ext k hk
  simp [joinBytes, highByte, lowByte]
  grind

@[simp] theorem highByte_joinBytes (hi lo : Byte) : highByte (joinBytes hi lo) = hi := by
  ext k hk
  simp [joinBytes, highByte]
  grind

@[simp] theorem lowByte_joinBytes (hi lo : Byte) : lowByte (joinBytes hi lo) = lo := by
  ext k hk
  simp [joinBytes, lowByte]
  grind

theorem formatA_and (c : Nibble) (nnn : Addr12) : formatA c nnn &&& 0xF000#16 = formatA c 0 := by
  apply BitVec.eq_of_getLsbD_eq
  intro k hk
  have : ∀ k : Fin 16, (0xF000#16).getLsbD k = decide (12 ≤ k.val) := by decide
  have := this ⟨k, hk⟩
  simp only [BitVec.getLsbD_and, this, formatA, BitVec.getLsbD_append]
  grind

theorem formatXK_and_class (c x : Nibble) (nn : Byte) : formatXK c x nn &&& 0xF000#16 = formatXK c 0 0 := by
  apply BitVec.eq_of_getLsbD_eq
  intro k hk
  have : ∀ k : Fin 16, (0xF000#16).getLsbD k = decide (12 ≤ k.val) := by decide
  have := this ⟨k, hk⟩
  simp only [BitVec.getLsbD_and, this, formatXK, BitVec.getLsbD_append]
  grind

theorem formatXK_and_selector (c x : Nibble) (nn : Byte) : formatXK c x nn &&& 0xF0FF#16 = formatXK c 0 nn := by
  apply BitVec.eq_of_getLsbD_eq
  intro k hk
  have : ∀ k : Fin 16, (0xF0FF#16).getLsbD k = decide (12 ≤ k.val ∨ k.val < 8) := by decide
  have := this ⟨k, hk⟩
  simp only [BitVec.getLsbD_and, this, formatXK, BitVec.getLsbD_append]
  grind

theorem formatXYN_and_class (c x y n : Nibble) : formatXYN c x y n &&& 0xF000#16 = formatXYN c 0 0 0 := by
  apply BitVec.eq_of_getLsbD_eq
  intro k hk
  have : ∀ k : Fin 16, (0xF000#16).getLsbD k = decide (12 ≤ k.val) := by decide
  have := this ⟨k, hk⟩
  simp only [BitVec.getLsbD_and, this, formatXYN, BitVec.getLsbD_append]
  grind

theorem formatXYN_and_selector (c x y n : Nibble) : formatXYN c x y n &&& 0xF00F#16 = formatXYN c 0 0 n := by
  apply BitVec.eq_of_getLsbD_eq
  intro k hk
  have : ∀ k : Fin 16, (0xF00F#16).getLsbD k = decide (12 ≤ k.val ∨ k.val < 4) := by decide
  have := this ⟨k, hk⟩
  simp only [BitVec.getLsbD_and, this, formatXYN, BitVec.getLsbD_append]
  grind

/-! What a word's masked bits say of its fields -/

theorem fieldClass_of_and_class {op v : Word} (h : op &&& 0xF000#16 = v) : fieldClass op = fieldClass v := by
  have := formatA_and (fieldClass op) (fieldNNN op)
  rw [formatA_fields, h] at this
  simp [this]

theorem fieldClass_of_and_n {op v : Word} (h : op &&& 0xF00F#16 = v) : fieldClass op = fieldClass v := by
  have := formatXYN_and_selector (fieldClass op) (fieldX op) (fieldY op) (fieldN op)
  rw [formatXYN_fields, h] at this
  simp [this]

theorem fieldN_of_and_n {op v : Word} (h : op &&& 0xF00F#16 = v) : fieldN op = fieldN v := by
  have := formatXYN_and_selector (fieldClass op) (fieldX op) (fieldY op) (fieldN op)
  rw [formatXYN_fields, h] at this
  simp [this]

theorem fieldClass_of_and_nn {op v : Word} (h : op &&& 0xF0FF#16 = v) : fieldClass op = fieldClass v := by
  have := formatXK_and_selector (fieldClass op) (fieldX op) (fieldNN op)
  rw [formatXK_fields, h] at this
  simp [this]

theorem fieldNN_of_and_nn {op v : Word} (h : op &&& 0xF0FF#16 = v) : fieldNN op = fieldNN v := by
  have := formatXK_and_selector (fieldClass op) (fieldX op) (fieldNN op)
  rw [formatXK_fields, h] at this
  simp [this]

end Sys2Proof
end

