-- ==== Sys2Proof/Laws/Memory.lean ====
section
/-! SUPPORT. Memory as a list of cells: read after write, the canonical form is kept by every write and held by the empty
memory, and it makes equal memories equal data. -/

namespace Sys2Proof.Machine

variable {base : Nat → Byte}

@[simp] theorem Memory.read_nil (a : Nat) : Memory.read base [] a = base a := rfl

theorem Memory.find_insert (m : Memory) (a b : Nat) (v : Byte) :
    Memory.find (Memory.insert m a v) b = if b = a then some v else Memory.find m b := by
  induction m with
  | nil => simp [Memory.insert, Memory.find]
  | cons c m ih =>
    obtain ⟨c, w⟩ := c
    by_cases h1 : a < c
    · by_cases h2 : b = a <;> simp [Memory.insert, Memory.find, h1, h2]
    · by_cases h2 : a = c
      · by_cases h3 : b = c <;> simp [Memory.insert, Memory.find, h2, h3]
      · by_cases h3 : b = c
        · simp [Memory.insert, Memory.find, h1, h2, h3, Ne.symm h2]
        · simp [Memory.insert, Memory.find, h1, h2, h3, ih]

theorem Memory.find_erase (m : Memory) (a b : Nat) :
    Memory.find (Memory.erase m a) b = if b = a then none else Memory.find m b := by
  induction m with
  | nil => simp [Memory.erase, Memory.find]
  | cons c m ih =>
    obtain ⟨c, w⟩ := c
    by_cases h1 : a = c <;> by_cases h2 : b = c <;> by_cases h3 : b = a <;>
      simp_all [Memory.erase, Memory.find]

/-- R61: a read gives the last value written there, and a write leaves every other address alone. -/
theorem Memory.read_write (m : Memory) (a b : Nat) (v : Byte) :
    Memory.read base (Memory.write base m a v) b = if b = a then v else Memory.read base m b := by
  by_cases h : v = base a <;> by_cases h2 : b = a <;>
    simp [Memory.read, Memory.write, Memory.find_insert, Memory.find_erase, h, h2]

theorem Memory.mem_insert {m : Memory} {a : Nat} {v : Byte} {c : Host.Cell} (h : c ∈ Memory.insert m a v) :
    c = (a, v) ∨ c ∈ m := by
  induction m with
  | nil => simpa [Memory.insert] using h
  | cons d m ih =>
    obtain ⟨b, w⟩ := d
    simp only [Memory.insert] at h
    split at h
    · simpa using h
    · split at h
      · simp only [List.mem_cons] at h ⊢
        exact h.imp_right .inr
      · simp only [List.mem_cons] at h ⊢
        rcases h with h | h
        · exact .inr (.inl h)
        · exact (ih h).imp_right .inr

theorem Memory.mem_erase {m : Memory} {a : Nat} {c : Host.Cell} (h : c ∈ Memory.erase m a) : c ∈ m := by
  induction m with
  | nil => exact h
  | cons d m ih =>
    simp only [Memory.erase] at h
    split at h
    · exact List.mem_cons_of_mem _ (ih h)
    · simp only [List.mem_cons] at h ⊢
      exact h.imp_right ih

theorem Memory.insert_rising {m : Memory} (hm : m.Pairwise (fun c d => c.1 < d.1)) (a : Nat) (v : Byte) :
    (Memory.insert m a v).Pairwise (fun c d => c.1 < d.1) := by
  induction m with
  | nil => simp [Memory.insert]
  | cons d m ih =>
    obtain ⟨b, w⟩ := d
    have ⟨hd, hr⟩ := List.pairwise_cons.mp hm
    simp only [Memory.insert]
    split
    · rename_i hab
      refine List.pairwise_cons.mpr ⟨fun c hc => ?_, hm⟩
      rcases List.mem_cons.mp hc with rfl | hc
      · exact hab
      · exact lt_trans hab (hd c hc)
    · split
      · rename_i hab
        subst hab
        exact List.pairwise_cons.mpr ⟨hd, hr⟩
      · rename_i h1 h2
        refine List.pairwise_cons.mpr ⟨fun c hc => ?_, ih hr⟩
        rcases Memory.mem_insert hc with rfl | hc
        · change b < a
          omega
        · exact hd c hc

theorem Memory.erase_rising {m : Memory} (hm : m.Pairwise (fun c d => c.1 < d.1)) (a : Nat) :
    (Memory.erase m a).Pairwise (fun c d => c.1 < d.1) := by
  induction m with
  | nil => exact hm
  | cons d m ih =>
    have ⟨hd, hr⟩ := List.pairwise_cons.mp hm
    simp only [Memory.erase]
    split
    · exact ih hr
    · exact List.pairwise_cons.mpr ⟨fun c hc => hd c (Memory.mem_erase hc), ih hr⟩

theorem Memory.wf_nil : Memory.wf base [] := by
  simp [Memory.wf]

/-- Every write at an address that exists keeps the canonical form. -/
theorem Memory.wf_write {m : Memory} (hm : Memory.wf base m) {a : Nat} (ha : a ≤ 0xFFF) (v : Byte) :
    Memory.wf base (Memory.write base m a v) := by
  unfold Memory.write
  split
  · exact ⟨Memory.erase_rising hm.1 a, fun c hc => hm.2 c (Memory.mem_erase hc)⟩
  · rename_i hv
    refine ⟨Memory.insert_rising hm.1 a v, fun c hc => ?_⟩
    rcases Memory.mem_insert hc with rfl | hc
    · exact ⟨ha, hv⟩
    · exact hm.2 c hc

/-- A cell of a rising list is the one its address finds. -/
theorem Memory.find_of_mem {m : Memory} (hm : m.Pairwise (fun c d => c.1 < d.1)) {c : Host.Cell} (hc : c ∈ m) :
    Memory.find m c.1 = some c.2 := by
  induction m with
  | nil => cases hc
  | cons d m ih =>
    have ⟨hd, hr⟩ := List.pairwise_cons.mp hm
    rcases List.mem_cons.mp hc with rfl | hc
    · simp [Memory.find]
    · have hne : c.1 ≠ d.1 := (hd c hc).ne'
      simp [Memory.find, hne, ih hr hc]

/-- What an address finds is a cell of the list. -/
theorem Memory.mem_of_find {m : Memory} {a : Nat} {v : Byte} (h : Memory.find m a = some v) : (a, v) ∈ m := by
  induction m with
  | nil => simp [Memory.find] at h
  | cons d m ih =>
    obtain ⟨b, w⟩ := d
    simp only [Memory.find] at h
    split at h
    · simp_all
    · exact List.mem_cons_of_mem _ (ih h)

end Sys2Proof.Machine
end

