-- ==== Sys2Proof/Laws/State.lean ====
section
/-! SUPPORT. One lemma per field per update of the state, and one per accessor an update leaves alone, so that no later
proof unfolds a record update. -/

namespace Sys2Proof.Machine

variable (s : State)

/-! ### `State.setReg` -/

@[simp] theorem State.setReg_i (x : Nibble) (b : Byte) : (s.setReg x b).i = s.i := rfl
@[simp] theorem State.setReg_pc (x : Nibble) (b : Byte) : (s.setReg x b).pc = s.pc := rfl
@[simp] theorem State.setReg_stack (x : Nibble) (b : Byte) : (s.setReg x b).stack = s.stack := rfl
@[simp] theorem State.setReg_depth (x : Nibble) (b : Byte) : (s.setReg x b).depth = s.depth := rfl
@[simp] theorem State.setReg_dt (x : Nibble) (b : Byte) : (s.setReg x b).dt = s.dt := rfl
@[simp] theorem State.setReg_st (x : Nibble) (b : Byte) : (s.setReg x b).st = s.st := rfl
@[simp] theorem State.setReg_mem (x : Nibble) (b : Byte) : (s.setReg x b).mem = s.mem := rfl
@[simp] theorem State.setReg_fb (x : Nibble) (b : Byte) : (s.setReg x b).fb = s.fb := rfl
@[simp] theorem State.setReg_key (x : Nibble) (b : Byte) : (s.setReg x b).key = s.key := rfl
@[simp] theorem State.setReg_halt (x : Nibble) (b : Byte) : (s.setReg x b).halt = s.halt := rfl
@[simp] theorem State.setReg_redraw (x : Nibble) (b : Byte) : (s.setReg x b).redraw = s.redraw := rfl
@[simp] theorem State.setReg_wait (x : Nibble) (b : Byte) : (s.setReg x b).wait = s.wait := rfl
@[simp] theorem State.setReg_err (x : Nibble) (b : Byte) : (s.setReg x b).err = s.err := rfl
@[simp] theorem State.setReg_draws (x : Nibble) (b : Byte) : (s.setReg x b).draws = s.draws := rfl
@[simp] theorem State.setReg_font (x : Nibble) (b : Byte) : (s.setReg x b).font = s.font := rfl
@[simp] theorem State.setReg_sp (x : Nibble) (b : Byte) : (s.setReg x b).sp = s.sp := rfl
@[simp] theorem State.setReg_pixel (x : Nibble) (b : Byte) (px py : Nat) : (s.setReg x b).pixel px py = s.pixel px py := rfl
@[simp] theorem State.setReg_keyPressed (x : Nibble) (b : Byte) (q : Nibble) : (s.setReg x b).keyPressed q = s.keyPressed q := rfl
@[simp] theorem State.setReg_unlisted (x : Nibble) (b : Byte) : (s.setReg x b).unlisted = s.unlisted := rfl
@[simp] theorem State.setReg_byte (x : Nibble) (b : Byte) (q : Nat) : (s.setReg x b).byte q = s.byte q := rfl

/-! ### `State.setI` -/

@[simp] theorem State.setI_v (w : Word) : (s.setI w).v = s.v := rfl
@[simp] theorem State.setI_i (w : Word) : (s.setI w).i = w := rfl
@[simp] theorem State.setI_pc (w : Word) : (s.setI w).pc = s.pc := rfl
@[simp] theorem State.setI_stack (w : Word) : (s.setI w).stack = s.stack := rfl
@[simp] theorem State.setI_depth (w : Word) : (s.setI w).depth = s.depth := rfl
@[simp] theorem State.setI_dt (w : Word) : (s.setI w).dt = s.dt := rfl
@[simp] theorem State.setI_st (w : Word) : (s.setI w).st = s.st := rfl
@[simp] theorem State.setI_mem (w : Word) : (s.setI w).mem = s.mem := rfl
@[simp] theorem State.setI_fb (w : Word) : (s.setI w).fb = s.fb := rfl
@[simp] theorem State.setI_key (w : Word) : (s.setI w).key = s.key := rfl
@[simp] theorem State.setI_halt (w : Word) : (s.setI w).halt = s.halt := rfl
@[simp] theorem State.setI_redraw (w : Word) : (s.setI w).redraw = s.redraw := rfl
@[simp] theorem State.setI_wait (w : Word) : (s.setI w).wait = s.wait := rfl
@[simp] theorem State.setI_err (w : Word) : (s.setI w).err = s.err := rfl
@[simp] theorem State.setI_draws (w : Word) : (s.setI w).draws = s.draws := rfl
@[simp] theorem State.setI_font (w : Word) : (s.setI w).font = s.font := rfl
@[simp] theorem State.setI_reg (w : Word) (r : Nibble) : (s.setI w).reg r = s.reg r := rfl
@[simp] theorem State.setI_sp (w : Word) : (s.setI w).sp = s.sp := rfl
@[simp] theorem State.setI_pixel (w : Word) (px py : Nat) : (s.setI w).pixel px py = s.pixel px py := rfl
@[simp] theorem State.setI_keyPressed (w : Word) (q : Nibble) : (s.setI w).keyPressed q = s.keyPressed q := rfl
@[simp] theorem State.setI_unlisted (w : Word) : (s.setI w).unlisted = s.unlisted := rfl
@[simp] theorem State.setI_byte (w : Word) (q : Nat) : (s.setI w).byte q = s.byte q := rfl

/-! ### `State.setPc` -/

@[simp] theorem State.setPc_v (w : Word) : (s.setPc w).v = s.v := rfl
@[simp] theorem State.setPc_i (w : Word) : (s.setPc w).i = s.i := rfl
@[simp] theorem State.setPc_pc (w : Word) : (s.setPc w).pc = w := rfl
@[simp] theorem State.setPc_stack (w : Word) : (s.setPc w).stack = s.stack := rfl
@[simp] theorem State.setPc_depth (w : Word) : (s.setPc w).depth = s.depth := rfl
@[simp] theorem State.setPc_dt (w : Word) : (s.setPc w).dt = s.dt := rfl
@[simp] theorem State.setPc_st (w : Word) : (s.setPc w).st = s.st := rfl
@[simp] theorem State.setPc_mem (w : Word) : (s.setPc w).mem = s.mem := rfl
@[simp] theorem State.setPc_fb (w : Word) : (s.setPc w).fb = s.fb := rfl
@[simp] theorem State.setPc_key (w : Word) : (s.setPc w).key = s.key := rfl
@[simp] theorem State.setPc_halt (w : Word) : (s.setPc w).halt = s.halt := rfl
@[simp] theorem State.setPc_redraw (w : Word) : (s.setPc w).redraw = s.redraw := rfl
@[simp] theorem State.setPc_wait (w : Word) : (s.setPc w).wait = s.wait := rfl
@[simp] theorem State.setPc_err (w : Word) : (s.setPc w).err = s.err := rfl
@[simp] theorem State.setPc_draws (w : Word) : (s.setPc w).draws = s.draws := rfl
@[simp] theorem State.setPc_font (w : Word) : (s.setPc w).font = s.font := rfl
@[simp] theorem State.setPc_reg (w : Word) (r : Nibble) : (s.setPc w).reg r = s.reg r := rfl
@[simp] theorem State.setPc_sp (w : Word) : (s.setPc w).sp = s.sp := rfl
@[simp] theorem State.setPc_pixel (w : Word) (px py : Nat) : (s.setPc w).pixel px py = s.pixel px py := rfl
@[simp] theorem State.setPc_keyPressed (w : Word) (q : Nibble) : (s.setPc w).keyPressed q = s.keyPressed q := rfl
@[simp] theorem State.setPc_unlisted (w : Word) : (s.setPc w).unlisted = s.unlisted := rfl
@[simp] theorem State.setPc_byte (w : Word) (q : Nat) : (s.setPc w).byte q = s.byte q := rfl

/-! ### `State.advance` -/

@[simp] theorem State.advance_v (k : Word) : (s.advance k).v = s.v := rfl
@[simp] theorem State.advance_i (k : Word) : (s.advance k).i = s.i := rfl
@[simp] theorem State.advance_pc (k : Word) : (s.advance k).pc = s.pc + k := rfl
@[simp] theorem State.advance_stack (k : Word) : (s.advance k).stack = s.stack := rfl
@[simp] theorem State.advance_depth (k : Word) : (s.advance k).depth = s.depth := rfl
@[simp] theorem State.advance_dt (k : Word) : (s.advance k).dt = s.dt := rfl
@[simp] theorem State.advance_st (k : Word) : (s.advance k).st = s.st := rfl
@[simp] theorem State.advance_mem (k : Word) : (s.advance k).mem = s.mem := rfl
@[simp] theorem State.advance_fb (k : Word) : (s.advance k).fb = s.fb := rfl
@[simp] theorem State.advance_key (k : Word) : (s.advance k).key = s.key := rfl
@[simp] theorem State.advance_halt (k : Word) : (s.advance k).halt = s.halt := rfl
@[simp] theorem State.advance_redraw (k : Word) : (s.advance k).redraw = s.redraw := rfl
@[simp] theorem State.advance_wait (k : Word) : (s.advance k).wait = s.wait := rfl
@[simp] theorem State.advance_err (k : Word) : (s.advance k).err = s.err := rfl
@[simp] theorem State.advance_draws (k : Word) : (s.advance k).draws = s.draws := rfl
@[simp] theorem State.advance_font (k : Word) : (s.advance k).font = s.font := rfl
@[simp] theorem State.advance_reg (k : Word) (r : Nibble) : (s.advance k).reg r = s.reg r := rfl
@[simp] theorem State.advance_sp (k : Word) : (s.advance k).sp = s.sp := rfl
@[simp] theorem State.advance_pixel (k : Word) (px py : Nat) : (s.advance k).pixel px py = s.pixel px py := rfl
@[simp] theorem State.advance_keyPressed (k : Word) (q : Nibble) : (s.advance k).keyPressed q = s.keyPressed q := rfl
@[simp] theorem State.advance_unlisted (k : Word) : (s.advance k).unlisted = s.unlisted := rfl
@[simp] theorem State.advance_byte (k : Word) (q : Nat) : (s.advance k).byte q = s.byte q := rfl

/-! ### `State.skipIf` -/

@[simp] theorem State.skipIf_v (c : Bool) : (s.skipIf c).v = s.v := rfl
@[simp] theorem State.skipIf_i (c : Bool) : (s.skipIf c).i = s.i := rfl
@[simp] theorem State.skipIf_pc (c : Bool) : (s.skipIf c).pc = s.pc + (if c then 4 else 2) := rfl
@[simp] theorem State.skipIf_stack (c : Bool) : (s.skipIf c).stack = s.stack := rfl
@[simp] theorem State.skipIf_depth (c : Bool) : (s.skipIf c).depth = s.depth := rfl
@[simp] theorem State.skipIf_dt (c : Bool) : (s.skipIf c).dt = s.dt := rfl
@[simp] theorem State.skipIf_st (c : Bool) : (s.skipIf c).st = s.st := rfl
@[simp] theorem State.skipIf_mem (c : Bool) : (s.skipIf c).mem = s.mem := rfl
@[simp] theorem State.skipIf_fb (c : Bool) : (s.skipIf c).fb = s.fb := rfl
@[simp] theorem State.skipIf_key (c : Bool) : (s.skipIf c).key = s.key := rfl
@[simp] theorem State.skipIf_halt (c : Bool) : (s.skipIf c).halt = s.halt := rfl
@[simp] theorem State.skipIf_redraw (c : Bool) : (s.skipIf c).redraw = s.redraw := rfl
@[simp] theorem State.skipIf_wait (c : Bool) : (s.skipIf c).wait = s.wait := rfl
@[simp] theorem State.skipIf_err (c : Bool) : (s.skipIf c).err = s.err := rfl
@[simp] theorem State.skipIf_draws (c : Bool) : (s.skipIf c).draws = s.draws := rfl
@[simp] theorem State.skipIf_font (c : Bool) : (s.skipIf c).font = s.font := rfl
@[simp] theorem State.skipIf_reg (c : Bool) (r : Nibble) : (s.skipIf c).reg r = s.reg r := rfl
@[simp] theorem State.skipIf_sp (c : Bool) : (s.skipIf c).sp = s.sp := rfl
@[simp] theorem State.skipIf_pixel (c : Bool) (px py : Nat) : (s.skipIf c).pixel px py = s.pixel px py := rfl
@[simp] theorem State.skipIf_keyPressed (c : Bool) (q : Nibble) : (s.skipIf c).keyPressed q = s.keyPressed q := rfl
@[simp] theorem State.skipIf_unlisted (c : Bool) : (s.skipIf c).unlisted = s.unlisted := rfl
@[simp] theorem State.skipIf_byte (c : Bool) (q : Nat) : (s.skipIf c).byte q = s.byte q := rfl

/-! ### `State.setDt` -/

@[simp] theorem State.setDt_v (b : Byte) : (s.setDt b).v = s.v := rfl
@[simp] theorem State.setDt_i (b : Byte) : (s.setDt b).i = s.i := rfl
@[simp] theorem State.setDt_pc (b : Byte) : (s.setDt b).pc = s.pc := rfl
@[simp] theorem State.setDt_stack (b : Byte) : (s.setDt b).stack = s.stack := rfl
@[simp] theorem State.setDt_depth (b : Byte) : (s.setDt b).depth = s.depth := rfl
@[simp] theorem State.setDt_dt (b : Byte) : (s.setDt b).dt = b := rfl
@[simp] theorem State.setDt_st (b : Byte) : (s.setDt b).st = s.st := rfl
@[simp] theorem State.setDt_mem (b : Byte) : (s.setDt b).mem = s.mem := rfl
@[simp] theorem State.setDt_fb (b : Byte) : (s.setDt b).fb = s.fb := rfl
@[simp] theorem State.setDt_key (b : Byte) : (s.setDt b).key = s.key := rfl
@[simp] theorem State.setDt_halt (b : Byte) : (s.setDt b).halt = s.halt := rfl
@[simp] theorem State.setDt_redraw (b : Byte) : (s.setDt b).redraw = s.redraw := rfl
@[simp] theorem State.setDt_wait (b : Byte) : (s.setDt b).wait = s.wait := rfl
@[simp] theorem State.setDt_err (b : Byte) : (s.setDt b).err = s.err := rfl
@[simp] theorem State.setDt_draws (b : Byte) : (s.setDt b).draws = s.draws := rfl
@[simp] theorem State.setDt_font (b : Byte) : (s.setDt b).font = s.font := rfl
@[simp] theorem State.setDt_reg (b : Byte) (r : Nibble) : (s.setDt b).reg r = s.reg r := rfl
@[simp] theorem State.setDt_sp (b : Byte) : (s.setDt b).sp = s.sp := rfl
@[simp] theorem State.setDt_pixel (b : Byte) (px py : Nat) : (s.setDt b).pixel px py = s.pixel px py := rfl
@[simp] theorem State.setDt_keyPressed (b : Byte) (q : Nibble) : (s.setDt b).keyPressed q = s.keyPressed q := rfl
@[simp] theorem State.setDt_unlisted (b : Byte) : (s.setDt b).unlisted = s.unlisted := rfl
@[simp] theorem State.setDt_byte (b : Byte) (q : Nat) : (s.setDt b).byte q = s.byte q := rfl

/-! ### `State.setSt` -/

@[simp] theorem State.setSt_v (b : Byte) : (s.setSt b).v = s.v := rfl
@[simp] theorem State.setSt_i (b : Byte) : (s.setSt b).i = s.i := rfl
@[simp] theorem State.setSt_pc (b : Byte) : (s.setSt b).pc = s.pc := rfl
@[simp] theorem State.setSt_stack (b : Byte) : (s.setSt b).stack = s.stack := rfl
@[simp] theorem State.setSt_depth (b : Byte) : (s.setSt b).depth = s.depth := rfl
@[simp] theorem State.setSt_dt (b : Byte) : (s.setSt b).dt = s.dt := rfl
@[simp] theorem State.setSt_st (b : Byte) : (s.setSt b).st = b := rfl
@[simp] theorem State.setSt_mem (b : Byte) : (s.setSt b).mem = s.mem := rfl
@[simp] theorem State.setSt_fb (b : Byte) : (s.setSt b).fb = s.fb := rfl
@[simp] theorem State.setSt_key (b : Byte) : (s.setSt b).key = s.key := rfl
@[simp] theorem State.setSt_halt (b : Byte) : (s.setSt b).halt = s.halt := rfl
@[simp] theorem State.setSt_redraw (b : Byte) : (s.setSt b).redraw = s.redraw := rfl
@[simp] theorem State.setSt_wait (b : Byte) : (s.setSt b).wait = s.wait := rfl
@[simp] theorem State.setSt_err (b : Byte) : (s.setSt b).err = s.err := rfl
@[simp] theorem State.setSt_draws (b : Byte) : (s.setSt b).draws = s.draws := rfl
@[simp] theorem State.setSt_font (b : Byte) : (s.setSt b).font = s.font := rfl
@[simp] theorem State.setSt_reg (b : Byte) (r : Nibble) : (s.setSt b).reg r = s.reg r := rfl
@[simp] theorem State.setSt_sp (b : Byte) : (s.setSt b).sp = s.sp := rfl
@[simp] theorem State.setSt_pixel (b : Byte) (px py : Nat) : (s.setSt b).pixel px py = s.pixel px py := rfl
@[simp] theorem State.setSt_keyPressed (b : Byte) (q : Nibble) : (s.setSt b).keyPressed q = s.keyPressed q := rfl
@[simp] theorem State.setSt_unlisted (b : Byte) : (s.setSt b).unlisted = s.unlisted := rfl
@[simp] theorem State.setSt_byte (b : Byte) (q : Nat) : (s.setSt b).byte q = s.byte q := rfl

/-! ### `State.setWait` -/

@[simp] theorem State.setWait_v (w : Option Nibble) : (s.setWait w).v = s.v := rfl
@[simp] theorem State.setWait_i (w : Option Nibble) : (s.setWait w).i = s.i := rfl
@[simp] theorem State.setWait_pc (w : Option Nibble) : (s.setWait w).pc = s.pc := rfl
@[simp] theorem State.setWait_stack (w : Option Nibble) : (s.setWait w).stack = s.stack := rfl
@[simp] theorem State.setWait_depth (w : Option Nibble) : (s.setWait w).depth = s.depth := rfl
@[simp] theorem State.setWait_dt (w : Option Nibble) : (s.setWait w).dt = s.dt := rfl
@[simp] theorem State.setWait_st (w : Option Nibble) : (s.setWait w).st = s.st := rfl
@[simp] theorem State.setWait_mem (w : Option Nibble) : (s.setWait w).mem = s.mem := rfl
@[simp] theorem State.setWait_fb (w : Option Nibble) : (s.setWait w).fb = s.fb := rfl
@[simp] theorem State.setWait_key (w : Option Nibble) : (s.setWait w).key = s.key := rfl
@[simp] theorem State.setWait_halt (w : Option Nibble) : (s.setWait w).halt = s.halt := rfl
@[simp] theorem State.setWait_redraw (w : Option Nibble) : (s.setWait w).redraw = s.redraw := rfl
@[simp] theorem State.setWait_wait (w : Option Nibble) : (s.setWait w).wait = w := rfl
@[simp] theorem State.setWait_err (w : Option Nibble) : (s.setWait w).err = s.err := rfl
@[simp] theorem State.setWait_draws (w : Option Nibble) : (s.setWait w).draws = s.draws := rfl
@[simp] theorem State.setWait_font (w : Option Nibble) : (s.setWait w).font = s.font := rfl
@[simp] theorem State.setWait_reg (w : Option Nibble) (r : Nibble) : (s.setWait w).reg r = s.reg r := rfl
@[simp] theorem State.setWait_sp (w : Option Nibble) : (s.setWait w).sp = s.sp := rfl
@[simp] theorem State.setWait_pixel (w : Option Nibble) (px py : Nat) : (s.setWait w).pixel px py = s.pixel px py := rfl
@[simp] theorem State.setWait_keyPressed (w : Option Nibble) (q : Nibble) : (s.setWait w).keyPressed q = s.keyPressed q := rfl
@[simp] theorem State.setWait_unlisted (w : Option Nibble) : (s.setWait w).unlisted = s.unlisted := rfl
@[simp] theorem State.setWait_byte (w : Option Nibble) (q : Nat) : (s.setWait w).byte q = s.byte q := rfl

/-! ### `State.setRedraw` -/

@[simp] theorem State.setRedraw_v (b : Bool) : (s.setRedraw b).v = s.v := rfl
@[simp] theorem State.setRedraw_i (b : Bool) : (s.setRedraw b).i = s.i := rfl
@[simp] theorem State.setRedraw_pc (b : Bool) : (s.setRedraw b).pc = s.pc := rfl
@[simp] theorem State.setRedraw_stack (b : Bool) : (s.setRedraw b).stack = s.stack := rfl
@[simp] theorem State.setRedraw_depth (b : Bool) : (s.setRedraw b).depth = s.depth := rfl
@[simp] theorem State.setRedraw_dt (b : Bool) : (s.setRedraw b).dt = s.dt := rfl
@[simp] theorem State.setRedraw_st (b : Bool) : (s.setRedraw b).st = s.st := rfl
@[simp] theorem State.setRedraw_mem (b : Bool) : (s.setRedraw b).mem = s.mem := rfl
@[simp] theorem State.setRedraw_fb (b : Bool) : (s.setRedraw b).fb = s.fb := rfl
@[simp] theorem State.setRedraw_key (b : Bool) : (s.setRedraw b).key = s.key := rfl
@[simp] theorem State.setRedraw_halt (b : Bool) : (s.setRedraw b).halt = s.halt := rfl
@[simp] theorem State.setRedraw_redraw (b : Bool) : (s.setRedraw b).redraw = b := rfl
@[simp] theorem State.setRedraw_wait (b : Bool) : (s.setRedraw b).wait = s.wait := rfl
@[simp] theorem State.setRedraw_err (b : Bool) : (s.setRedraw b).err = s.err := rfl
@[simp] theorem State.setRedraw_draws (b : Bool) : (s.setRedraw b).draws = s.draws := rfl
@[simp] theorem State.setRedraw_font (b : Bool) : (s.setRedraw b).font = s.font := rfl
@[simp] theorem State.setRedraw_reg (b : Bool) (r : Nibble) : (s.setRedraw b).reg r = s.reg r := rfl
@[simp] theorem State.setRedraw_sp (b : Bool) : (s.setRedraw b).sp = s.sp := rfl
@[simp] theorem State.setRedraw_pixel (b : Bool) (px py : Nat) : (s.setRedraw b).pixel px py = s.pixel px py := rfl
@[simp] theorem State.setRedraw_keyPressed (b : Bool) (q : Nibble) : (s.setRedraw b).keyPressed q = s.keyPressed q := rfl
@[simp] theorem State.setRedraw_unlisted (b : Bool) : (s.setRedraw b).unlisted = s.unlisted := rfl
@[simp] theorem State.setRedraw_byte (b : Bool) (q : Nat) : (s.setRedraw b).byte q = s.byte q := rfl

/-! ### `State.setHalt` -/

@[simp] theorem State.setHalt_v (b : Bool) : (s.setHalt b).v = s.v := rfl
@[simp] theorem State.setHalt_i (b : Bool) : (s.setHalt b).i = s.i := rfl
@[simp] theorem State.setHalt_pc (b : Bool) : (s.setHalt b).pc = s.pc := rfl
@[simp] theorem State.setHalt_stack (b : Bool) : (s.setHalt b).stack = s.stack := rfl
@[simp] theorem State.setHalt_depth (b : Bool) : (s.setHalt b).depth = s.depth := rfl
@[simp] theorem State.setHalt_dt (b : Bool) : (s.setHalt b).dt = s.dt := rfl
@[simp] theorem State.setHalt_st (b : Bool) : (s.setHalt b).st = s.st := rfl
@[simp] theorem State.setHalt_mem (b : Bool) : (s.setHalt b).mem = s.mem := rfl
@[simp] theorem State.setHalt_fb (b : Bool) : (s.setHalt b).fb = s.fb := rfl
@[simp] theorem State.setHalt_key (b : Bool) : (s.setHalt b).key = s.key := rfl
@[simp] theorem State.setHalt_halt (b : Bool) : (s.setHalt b).halt = b := rfl
@[simp] theorem State.setHalt_redraw (b : Bool) : (s.setHalt b).redraw = s.redraw := rfl
@[simp] theorem State.setHalt_wait (b : Bool) : (s.setHalt b).wait = s.wait := rfl
@[simp] theorem State.setHalt_err (b : Bool) : (s.setHalt b).err = s.err := rfl
@[simp] theorem State.setHalt_draws (b : Bool) : (s.setHalt b).draws = s.draws := rfl
@[simp] theorem State.setHalt_font (b : Bool) : (s.setHalt b).font = s.font := rfl
@[simp] theorem State.setHalt_reg (b : Bool) (r : Nibble) : (s.setHalt b).reg r = s.reg r := rfl
@[simp] theorem State.setHalt_sp (b : Bool) : (s.setHalt b).sp = s.sp := rfl
@[simp] theorem State.setHalt_pixel (b : Bool) (px py : Nat) : (s.setHalt b).pixel px py = s.pixel px py := rfl
@[simp] theorem State.setHalt_keyPressed (b : Bool) (q : Nibble) : (s.setHalt b).keyPressed q = s.keyPressed q := rfl
@[simp] theorem State.setHalt_unlisted (b : Bool) : (s.setHalt b).unlisted = s.unlisted := rfl
@[simp] theorem State.setHalt_byte (b : Bool) (q : Nat) : (s.setHalt b).byte q = s.byte q := rfl

/-! ### `State.setFb` -/

@[simp] theorem State.setFb_v (fb : Vector (BitVec 64) 32) : (s.setFb fb).v = s.v := rfl
@[simp] theorem State.setFb_i (fb : Vector (BitVec 64) 32) : (s.setFb fb).i = s.i := rfl
@[simp] theorem State.setFb_pc (fb : Vector (BitVec 64) 32) : (s.setFb fb).pc = s.pc := rfl
@[simp] theorem State.setFb_stack (fb : Vector (BitVec 64) 32) : (s.setFb fb).stack = s.stack := rfl
@[simp] theorem State.setFb_depth (fb : Vector (BitVec 64) 32) : (s.setFb fb).depth = s.depth := rfl
@[simp] theorem State.setFb_dt (fb : Vector (BitVec 64) 32) : (s.setFb fb).dt = s.dt := rfl
@[simp] theorem State.setFb_st (fb : Vector (BitVec 64) 32) : (s.setFb fb).st = s.st := rfl
@[simp] theorem State.setFb_mem (fb : Vector (BitVec 64) 32) : (s.setFb fb).mem = s.mem := rfl
@[simp] theorem State.setFb_fb (fb : Vector (BitVec 64) 32) : (s.setFb fb).fb = fb := rfl
@[simp] theorem State.setFb_key (fb : Vector (BitVec 64) 32) : (s.setFb fb).key = s.key := rfl
@[simp] theorem State.setFb_halt (fb : Vector (BitVec 64) 32) : (s.setFb fb).halt = s.halt := rfl
@[simp] theorem State.setFb_redraw (fb : Vector (BitVec 64) 32) : (s.setFb fb).redraw = s.redraw := rfl
@[simp] theorem State.setFb_wait (fb : Vector (BitVec 64) 32) : (s.setFb fb).wait = s.wait := rfl
@[simp] theorem State.setFb_err (fb : Vector (BitVec 64) 32) : (s.setFb fb).err = s.err := rfl
@[simp] theorem State.setFb_draws (fb : Vector (BitVec 64) 32) : (s.setFb fb).draws = s.draws := rfl
@[simp] theorem State.setFb_font (fb : Vector (BitVec 64) 32) : (s.setFb fb).font = s.font := rfl
@[simp] theorem State.setFb_reg (fb : Vector (BitVec 64) 32) (r : Nibble) : (s.setFb fb).reg r = s.reg r := rfl
@[simp] theorem State.setFb_sp (fb : Vector (BitVec 64) 32) : (s.setFb fb).sp = s.sp := rfl
@[simp] theorem State.setFb_keyPressed (fb : Vector (BitVec 64) 32) (q : Nibble) : (s.setFb fb).keyPressed q = s.keyPressed q := rfl
@[simp] theorem State.setFb_unlisted (fb : Vector (BitVec 64) 32) : (s.setFb fb).unlisted = s.unlisted := rfl
@[simp] theorem State.setFb_byte (fb : Vector (BitVec 64) 32) (q : Nat) : (s.setFb fb).byte q = s.byte q := rfl

/-! ### `State.setKey` -/

@[simp] theorem State.setKey_v (k : Nibble) (b : Bool) : (s.setKey k b).v = s.v := rfl
@[simp] theorem State.setKey_i (k : Nibble) (b : Bool) : (s.setKey k b).i = s.i := rfl
@[simp] theorem State.setKey_pc (k : Nibble) (b : Bool) : (s.setKey k b).pc = s.pc := rfl
@[simp] theorem State.setKey_stack (k : Nibble) (b : Bool) : (s.setKey k b).stack = s.stack := rfl
@[simp] theorem State.setKey_depth (k : Nibble) (b : Bool) : (s.setKey k b).depth = s.depth := rfl
@[simp] theorem State.setKey_dt (k : Nibble) (b : Bool) : (s.setKey k b).dt = s.dt := rfl
@[simp] theorem State.setKey_st (k : Nibble) (b : Bool) : (s.setKey k b).st = s.st := rfl
@[simp] theorem State.setKey_mem (k : Nibble) (b : Bool) : (s.setKey k b).mem = s.mem := rfl
@[simp] theorem State.setKey_fb (k : Nibble) (b : Bool) : (s.setKey k b).fb = s.fb := rfl
@[simp] theorem State.setKey_halt (k : Nibble) (b : Bool) : (s.setKey k b).halt = s.halt := rfl
@[simp] theorem State.setKey_redraw (k : Nibble) (b : Bool) : (s.setKey k b).redraw = s.redraw := rfl
@[simp] theorem State.setKey_wait (k : Nibble) (b : Bool) : (s.setKey k b).wait = s.wait := rfl
@[simp] theorem State.setKey_err (k : Nibble) (b : Bool) : (s.setKey k b).err = s.err := rfl
@[simp] theorem State.setKey_draws (k : Nibble) (b : Bool) : (s.setKey k b).draws = s.draws := rfl
@[simp] theorem State.setKey_font (k : Nibble) (b : Bool) : (s.setKey k b).font = s.font := rfl
@[simp] theorem State.setKey_reg (k : Nibble) (b : Bool) (r : Nibble) : (s.setKey k b).reg r = s.reg r := rfl
@[simp] theorem State.setKey_sp (k : Nibble) (b : Bool) : (s.setKey k b).sp = s.sp := rfl
@[simp] theorem State.setKey_pixel (k : Nibble) (b : Bool) (px py : Nat) : (s.setKey k b).pixel px py = s.pixel px py := rfl
@[simp] theorem State.setKey_unlisted (k : Nibble) (b : Bool) : (s.setKey k b).unlisted = s.unlisted := rfl
@[simp] theorem State.setKey_byte (k : Nibble) (b : Bool) (q : Nat) : (s.setKey k b).byte q = s.byte q := rfl

/-! ### `State.setByte` -/

@[simp] theorem State.setByte_v (a : Nat) (b : Byte) : (s.setByte a b).v = s.v := rfl
@[simp] theorem State.setByte_i (a : Nat) (b : Byte) : (s.setByte a b).i = s.i := rfl
@[simp] theorem State.setByte_pc (a : Nat) (b : Byte) : (s.setByte a b).pc = s.pc := rfl
@[simp] theorem State.setByte_stack (a : Nat) (b : Byte) : (s.setByte a b).stack = s.stack := rfl
@[simp] theorem State.setByte_depth (a : Nat) (b : Byte) : (s.setByte a b).depth = s.depth := rfl
@[simp] theorem State.setByte_dt (a : Nat) (b : Byte) : (s.setByte a b).dt = s.dt := rfl
@[simp] theorem State.setByte_st (a : Nat) (b : Byte) : (s.setByte a b).st = s.st := rfl
@[simp] theorem State.setByte_fb (a : Nat) (b : Byte) : (s.setByte a b).fb = s.fb := rfl
@[simp] theorem State.setByte_key (a : Nat) (b : Byte) : (s.setByte a b).key = s.key := rfl
@[simp] theorem State.setByte_halt (a : Nat) (b : Byte) : (s.setByte a b).halt = s.halt := rfl
@[simp] theorem State.setByte_redraw (a : Nat) (b : Byte) : (s.setByte a b).redraw = s.redraw := rfl
@[simp] theorem State.setByte_wait (a : Nat) (b : Byte) : (s.setByte a b).wait = s.wait := rfl
@[simp] theorem State.setByte_err (a : Nat) (b : Byte) : (s.setByte a b).err = s.err := rfl
@[simp] theorem State.setByte_draws (a : Nat) (b : Byte) : (s.setByte a b).draws = s.draws := rfl
@[simp] theorem State.setByte_font (a : Nat) (b : Byte) : (s.setByte a b).font = s.font := rfl
@[simp] theorem State.setByte_reg (a : Nat) (b : Byte) (r : Nibble) : (s.setByte a b).reg r = s.reg r := rfl
@[simp] theorem State.setByte_sp (a : Nat) (b : Byte) : (s.setByte a b).sp = s.sp := rfl
@[simp] theorem State.setByte_pixel (a : Nat) (b : Byte) (px py : Nat) : (s.setByte a b).pixel px py = s.pixel px py := rfl
@[simp] theorem State.setByte_keyPressed (a : Nat) (b : Byte) (q : Nibble) : (s.setByte a b).keyPressed q = s.keyPressed q := rfl
@[simp] theorem State.setByte_unlisted (a : Nat) (b : Byte) : (s.setByte a b).unlisted = s.unlisted := rfl

/-! ### `State.raise` -/

@[simp] theorem State.raise_v (kind : ErrKind) (opcode : Option Word) (info : Option Nat) : (s.raise kind opcode info).v = s.v := rfl
@[simp] theorem State.raise_i (kind : ErrKind) (opcode : Option Word) (info : Option Nat) : (s.raise kind opcode info).i = s.i := rfl
@[simp] theorem State.raise_pc (kind : ErrKind) (opcode : Option Word) (info : Option Nat) : (s.raise kind opcode info).pc = s.pc := rfl
@[simp] theorem State.raise_stack (kind : ErrKind) (opcode : Option Word) (info : Option Nat) : (s.raise kind opcode info).stack = s.stack := rfl
@[simp] theorem State.raise_depth (kind : ErrKind) (opcode : Option Word) (info : Option Nat) : (s.raise kind opcode info).depth = s.depth := rfl
@[simp] theorem State.raise_dt (kind : ErrKind) (opcode : Option Word) (info : Option Nat) : (s.raise kind opcode info).dt = s.dt := rfl
@[simp] theorem State.raise_st (kind : ErrKind) (opcode : Option Word) (info : Option Nat) : (s.raise kind opcode info).st = s.st := rfl
@[simp] theorem State.raise_mem (kind : ErrKind) (opcode : Option Word) (info : Option Nat) : (s.raise kind opcode info).mem = s.mem := rfl
@[simp] theorem State.raise_fb (kind : ErrKind) (opcode : Option Word) (info : Option Nat) : (s.raise kind opcode info).fb = s.fb := rfl
@[simp] theorem State.raise_key (kind : ErrKind) (opcode : Option Word) (info : Option Nat) : (s.raise kind opcode info).key = s.key := rfl
@[simp] theorem State.raise_halt (kind : ErrKind) (opcode : Option Word) (info : Option Nat) : (s.raise kind opcode info).halt = true := rfl
@[simp] theorem State.raise_redraw (kind : ErrKind) (opcode : Option Word) (info : Option Nat) : (s.raise kind opcode info).redraw = s.redraw := rfl
@[simp] theorem State.raise_wait (kind : ErrKind) (opcode : Option Word) (info : Option Nat) : (s.raise kind opcode info).wait = s.wait := rfl
@[simp] theorem State.raise_draws (kind : ErrKind) (opcode : Option Word) (info : Option Nat) : (s.raise kind opcode info).draws = s.draws := rfl
@[simp] theorem State.raise_font (kind : ErrKind) (opcode : Option Word) (info : Option Nat) : (s.raise kind opcode info).font = s.font := rfl
@[simp] theorem State.raise_reg (kind : ErrKind) (opcode : Option Word) (info : Option Nat) (r : Nibble) : (s.raise kind opcode info).reg r = s.reg r := rfl
@[simp] theorem State.raise_sp (kind : ErrKind) (opcode : Option Word) (info : Option Nat) : (s.raise kind opcode info).sp = s.sp := rfl
@[simp] theorem State.raise_pixel (kind : ErrKind) (opcode : Option Word) (info : Option Nat) (px py : Nat) : (s.raise kind opcode info).pixel px py = s.pixel px py := rfl
@[simp] theorem State.raise_keyPressed (kind : ErrKind) (opcode : Option Word) (info : Option Nat) (q : Nibble) : (s.raise kind opcode info).keyPressed q = s.keyPressed q := rfl
@[simp] theorem State.raise_unlisted (kind : ErrKind) (opcode : Option Word) (info : Option Nat) : (s.raise kind opcode info).unlisted = s.unlisted := rfl
@[simp] theorem State.raise_byte (kind : ErrKind) (opcode : Option Word) (info : Option Nat) (q : Nat) : (s.raise kind opcode info).byte q = s.byte q := rfl

/-! ### `State.setStack` -/

@[simp] theorem State.setStack_v (stack : Vector Word 16) (depth : Fin 17) : (s.setStack stack depth).v = s.v := rfl
@[simp] theorem State.setStack_i (stack : Vector Word 16) (depth : Fin 17) : (s.setStack stack depth).i = s.i := rfl
@[simp] theorem State.setStack_pc (stack : Vector Word 16) (depth : Fin 17) : (s.setStack stack depth).pc = s.pc := rfl
@[simp] theorem State.setStack_stack (stack : Vector Word 16) (depth : Fin 17) : (s.setStack stack depth).stack = stack := rfl
@[simp] theorem State.setStack_depth (stack : Vector Word 16) (depth : Fin 17) : (s.setStack stack depth).depth = depth := rfl
@[simp] theorem State.setStack_dt (stack : Vector Word 16) (depth : Fin 17) : (s.setStack stack depth).dt = s.dt := rfl
@[simp] theorem State.setStack_st (stack : Vector Word 16) (depth : Fin 17) : (s.setStack stack depth).st = s.st := rfl
@[simp] theorem State.setStack_mem (stack : Vector Word 16) (depth : Fin 17) : (s.setStack stack depth).mem = s.mem := rfl
@[simp] theorem State.setStack_fb (stack : Vector Word 16) (depth : Fin 17) : (s.setStack stack depth).fb = s.fb := rfl
@[simp] theorem State.setStack_key (stack : Vector Word 16) (depth : Fin 17) : (s.setStack stack depth).key = s.key := rfl
@[simp] theorem State.setStack_halt (stack : Vector Word 16) (depth : Fin 17) : (s.setStack stack depth).halt = s.halt := rfl
@[simp] theorem State.setStack_redraw (stack : Vector Word 16) (depth : Fin 17) : (s.setStack stack depth).redraw = s.redraw := rfl
@[simp] theorem State.setStack_wait (stack : Vector Word 16) (depth : Fin 17) : (s.setStack stack depth).wait = s.wait := rfl
@[simp] theorem State.setStack_err (stack : Vector Word 16) (depth : Fin 17) : (s.setStack stack depth).err = s.err := rfl
@[simp] theorem State.setStack_draws (stack : Vector Word 16) (depth : Fin 17) : (s.setStack stack depth).draws = s.draws := rfl
@[simp] theorem State.setStack_font (stack : Vector Word 16) (depth : Fin 17) : (s.setStack stack depth).font = s.font := rfl
@[simp] theorem State.setStack_reg (stack : Vector Word 16) (depth : Fin 17) (r : Nibble) : (s.setStack stack depth).reg r = s.reg r := rfl
@[simp] theorem State.setStack_pixel (stack : Vector Word 16) (depth : Fin 17) (px py : Nat) : (s.setStack stack depth).pixel px py = s.pixel px py := rfl
@[simp] theorem State.setStack_keyPressed (stack : Vector Word 16) (depth : Fin 17) (q : Nibble) : (s.setStack stack depth).keyPressed q = s.keyPressed q := rfl
@[simp] theorem State.setStack_unlisted (stack : Vector Word 16) (depth : Fin 17) : (s.setStack stack depth).unlisted = s.unlisted := rfl
@[simp] theorem State.setStack_byte (stack : Vector Word 16) (depth : Fin 17) (q : Nat) : (s.setStack stack depth).byte q = s.byte q := rfl
@[simp] theorem State.setStack_sp (stack : Vector Word 16) (depth : Fin 17) : (s.setStack stack depth).sp = (depth.val : Int) - 1 := rfl

/-! ### `State.raiseFrom` -/

@[simp] theorem State.raiseFrom_v (j : Instr) (kind : ErrKind) (info : Option Nat) : (s.raiseFrom j kind info).v = s.v := rfl
@[simp] theorem State.raiseFrom_i (j : Instr) (kind : ErrKind) (info : Option Nat) : (s.raiseFrom j kind info).i = s.i := rfl
@[simp] theorem State.raiseFrom_pc (j : Instr) (kind : ErrKind) (info : Option Nat) : (s.raiseFrom j kind info).pc = s.pc := rfl
@[simp] theorem State.raiseFrom_stack (j : Instr) (kind : ErrKind) (info : Option Nat) : (s.raiseFrom j kind info).stack = s.stack := rfl
@[simp] theorem State.raiseFrom_depth (j : Instr) (kind : ErrKind) (info : Option Nat) : (s.raiseFrom j kind info).depth = s.depth := rfl
@[simp] theorem State.raiseFrom_dt (j : Instr) (kind : ErrKind) (info : Option Nat) : (s.raiseFrom j kind info).dt = s.dt := rfl
@[simp] theorem State.raiseFrom_st (j : Instr) (kind : ErrKind) (info : Option Nat) : (s.raiseFrom j kind info).st = s.st := rfl
@[simp] theorem State.raiseFrom_mem (j : Instr) (kind : ErrKind) (info : Option Nat) : (s.raiseFrom j kind info).mem = s.mem := rfl
@[simp] theorem State.raiseFrom_fb (j : Instr) (kind : ErrKind) (info : Option Nat) : (s.raiseFrom j kind info).fb = s.fb := rfl
@[simp] theorem State.raiseFrom_key (j : Instr) (kind : ErrKind) (info : Option Nat) : (s.raiseFrom j kind info).key = s.key := rfl
@[simp] theorem State.raiseFrom_halt (j : Instr) (kind : ErrKind) (info : Option Nat) : (s.raiseFrom j kind info).halt = true := rfl
@[simp] theorem State.raiseFrom_redraw (j : Instr) (kind : ErrKind) (info : Option Nat) : (s.raiseFrom j kind info).redraw = s.redraw := rfl
@[simp] theorem State.raiseFrom_wait (j : Instr) (kind : ErrKind) (info : Option Nat) : (s.raiseFrom j kind info).wait = s.wait := rfl
@[simp] theorem State.raiseFrom_draws (j : Instr) (kind : ErrKind) (info : Option Nat) : (s.raiseFrom j kind info).draws = s.draws := rfl
@[simp] theorem State.raiseFrom_font (j : Instr) (kind : ErrKind) (info : Option Nat) : (s.raiseFrom j kind info).font = s.font := rfl
@[simp] theorem State.raiseFrom_reg (j : Instr) (kind : ErrKind) (info : Option Nat) (r : Nibble) : (s.raiseFrom j kind info).reg r = s.reg r := rfl
@[simp] theorem State.raiseFrom_sp (j : Instr) (kind : ErrKind) (info : Option Nat) : (s.raiseFrom j kind info).sp = s.sp := rfl
@[simp] theorem State.raiseFrom_pixel (j : Instr) (kind : ErrKind) (info : Option Nat) (px py : Nat) : (s.raiseFrom j kind info).pixel px py = s.pixel px py := rfl
@[simp] theorem State.raiseFrom_keyPressed (j : Instr) (kind : ErrKind) (info : Option Nat) (q : Nibble) : (s.raiseFrom j kind info).keyPressed q = s.keyPressed q := rfl
@[simp] theorem State.raiseFrom_unlisted (j : Instr) (kind : ErrKind) (info : Option Nat) : (s.raiseFrom j kind info).unlisted = s.unlisted := rfl
@[simp] theorem State.raiseFrom_byte (j : Instr) (kind : ErrKind) (info : Option Nat) (q : Nat) : (s.raiseFrom j kind info).byte q = s.byte q := rfl

/-! ### `State.hostReset` -/

@[simp] theorem State.hostReset_v : (s.hostReset).v = State.reset.v := rfl
@[simp] theorem State.hostReset_i : (s.hostReset).i = State.reset.i := rfl
@[simp] theorem State.hostReset_pc : (s.hostReset).pc = State.reset.pc := rfl
@[simp] theorem State.hostReset_stack : (s.hostReset).stack = State.reset.stack := rfl
@[simp] theorem State.hostReset_depth : (s.hostReset).depth = State.reset.depth := rfl
@[simp] theorem State.hostReset_dt : (s.hostReset).dt = State.reset.dt := rfl
@[simp] theorem State.hostReset_st : (s.hostReset).st = State.reset.st := rfl
@[simp] theorem State.hostReset_mem : (s.hostReset).mem = State.reset.mem := rfl
@[simp] theorem State.hostReset_fb : (s.hostReset).fb = State.reset.fb := rfl
@[simp] theorem State.hostReset_key : (s.hostReset).key = State.reset.key := rfl
@[simp] theorem State.hostReset_halt : (s.hostReset).halt = State.reset.halt := rfl
@[simp] theorem State.hostReset_redraw : (s.hostReset).redraw = State.reset.redraw := rfl
@[simp] theorem State.hostReset_wait : (s.hostReset).wait = State.reset.wait := rfl
@[simp] theorem State.hostReset_err : (s.hostReset).err = State.reset.err := rfl
@[simp] theorem State.hostReset_draws : (s.hostReset).draws = s.draws := rfl
@[simp] theorem State.hostReset_font : (s.hostReset).font = s.font := rfl

/-! ### ERR under `raise`, and the two results of a random draw -/

/-- R271: the first report is the one that stays. -/
theorem State.raise_err (kind : ErrKind) (opcode : Option Word) (info : Option Nat) :
    (s.raise kind opcode info).err = some (s.err.getD ⟨kind, opcode, s.pc, info⟩) := by
  unfold State.raise
  cases s.err <;> rfl

@[simp] theorem State.raise_err_of_none (kind : ErrKind) (opcode : Option Word) (info : Option Nat)
    (h : s.err = none) : (s.raise kind opcode info).err = some ⟨kind, opcode, s.pc, info⟩ := by
  simp [State.raise_err, h]

/-- The report of an instruction: its own word, its PC. -/
theorem State.raiseFrom_err (j : Instr) (kind : ErrKind) (info : Option Nat) :
    (s.raiseFrom j kind info).err = some (s.err.getD ⟨kind, some (encode j), s.pc, info⟩) :=
  s.raise_err kind (some (encode j)) info

@[simp] theorem State.drawRandom_fst : s.drawRandom.1 = Config.rng s.draws := rfl
@[simp] theorem State.drawRandom_snd_v : s.drawRandom.2.v = s.v := rfl
@[simp] theorem State.drawRandom_snd_i : s.drawRandom.2.i = s.i := rfl
@[simp] theorem State.drawRandom_snd_pc : s.drawRandom.2.pc = s.pc := rfl
@[simp] theorem State.drawRandom_snd_stack : s.drawRandom.2.stack = s.stack := rfl
@[simp] theorem State.drawRandom_snd_depth : s.drawRandom.2.depth = s.depth := rfl
@[simp] theorem State.drawRandom_snd_dt : s.drawRandom.2.dt = s.dt := rfl
@[simp] theorem State.drawRandom_snd_st : s.drawRandom.2.st = s.st := rfl
@[simp] theorem State.drawRandom_snd_mem : s.drawRandom.2.mem = s.mem := rfl
@[simp] theorem State.drawRandom_snd_fb : s.drawRandom.2.fb = s.fb := rfl
@[simp] theorem State.drawRandom_snd_key : s.drawRandom.2.key = s.key := rfl
@[simp] theorem State.drawRandom_snd_halt : s.drawRandom.2.halt = s.halt := rfl
@[simp] theorem State.drawRandom_snd_redraw : s.drawRandom.2.redraw = s.redraw := rfl
@[simp] theorem State.drawRandom_snd_wait : s.drawRandom.2.wait = s.wait := rfl
@[simp] theorem State.drawRandom_snd_err : s.drawRandom.2.err = s.err := rfl
@[simp] theorem State.drawRandom_snd_draws : s.drawRandom.2.draws = s.draws + 1 := rfl
@[simp] theorem State.drawRandom_snd_font : s.drawRandom.2.font = s.font := rfl
@[simp] theorem State.drawRandom_snd_reg (r : Nibble) : s.drawRandom.2.reg r = s.reg r := rfl
@[simp] theorem State.drawRandom_snd_sp : s.drawRandom.2.sp = s.sp := rfl
@[simp] theorem State.drawRandom_snd_pixel (px py : Nat) : s.drawRandom.2.pixel px py = s.pixel px py := rfl
@[simp] theorem State.drawRandom_snd_keyPressed (q : Nibble) : s.drawRandom.2.keyPressed q = s.keyPressed q := rfl
@[simp] theorem State.drawRandom_snd_unlisted : s.drawRandom.2.unlisted = s.unlisted := rfl
@[simp] theorem State.drawRandom_snd_byte (q : Nat) : s.drawRandom.2.byte q = s.byte q := rfl

end Sys2Proof.Machine
end

