-- ==== Sys2Proof/Laws/Ops.lean ====
section
/-! SUPPORT. What each shared operation can do, said once: registers, keys, pixels, memory ranges, stack, fetch, raising an
error, the random draw. -/

namespace Sys2Proof.Machine

variable (s : State)

/-! ## Registers and keys -/

/-- V[x] after a register write. -/
@[simp] theorem State.reg_setReg (x r : Nibble) (b : Byte) :
    (s.setReg x b).reg r = if r = x then b else s.reg r := by
  simp [State.reg, State.setReg, Vector.getElem_set, BitVec.toNat_inj, eq_comm]

/-- KEY[q] after a latch write. -/
@[simp] theorem State.keyPressed_setKey (k q : Nibble) (b : Bool) :
    (s.setKey k b).keyPressed q = if q = k then b else s.keyPressed q := by
  simp [State.keyPressed, State.setKey, Vector.getElem_set, BitVec.toNat_inj, eq_comm]

/-- Two states with the same registers, read one by one, have the same register file. -/
theorem State.v_ext {s t : State} (h : ∀ r, t.reg r = s.reg r) : t.v = s.v := by
  apply Vector.ext
  intro k hk
  have := h (BitVec.ofNat 4 k)
  simpa [State.reg, Nat.mod_eq_of_lt hk] using this

/-- Two states with the same keys, read one by one, have the same latch. -/
theorem State.key_ext {s t : State} (h : ∀ k, t.keyPressed k = s.keyPressed k) : t.key = s.key := by
  apply Vector.ext
  intro k hk
  have := h (BitVec.ofNat 4 k)
  simpa [State.keyPressed, Nat.mod_eq_of_lt hk] using this

/-- SP and the depth count say the same. -/
theorem State.sp_eq_iff (s t : State) : t.sp = s.sp ↔ t.depth = s.depth := by
  simp only [State.sp, Fin.ext_iff]
  omega

/-! ## Flags and extensions -/

@[simp] theorem flagByte_true : flagByte true = 1 := rfl
@[simp] theorem flagByte_false : flagByte false = 0 := rfl

theorem zextByte_toNat (b : Byte) : (zextByte b).toNat = b.toNat := by
  have := b.isLt
  simp only [zextByte, BitVec.toNat_setWidth]
  omega

theorem zextAddr_toNat (a : Addr12) : (zextAddr a).toNat = a.toNat := by
  have := a.isLt
  simp only [zextAddr, BitVec.toNat_setWidth]
  omega

theorem zextKey_toNat (k : Nibble) : (zextKey k).toNat = k.toNat := by
  have := k.isLt
  simp only [zextKey, BitVec.toNat_setWidth]
  omega

/-! ## Ranges of addresses -/

theorem firstOutOfRange_eq_none {a n : Nat} : firstOutOfRange a n = none ↔ n = 0 ∨ a + n ≤ 0x1000 := by
  unfold firstOutOfRange
  split <;> simp <;> omega

theorem firstOutOfRange_eq_some {a n e : Nat} :
    firstOutOfRange a n = some e ↔ 0 < n ∧ 0x1000 < a + n ∧ e = max a 0x1000 := by
  unfold firstOutOfRange
  split <;> simp <;> omega

/-! ## Bytes of memory -/

/-- MEM[q] after one byte is written. -/
theorem State.byte_setByte (a q : Nat) (b : Byte) :
    (s.setByte a b).byte q = if q = a ∧ a ≤ 0xFFF then b else s.byte q := by
  change Memory.read s.unlisted (if a ≤ 0xFFF then Memory.write s.unlisted s.mem a b else s.mem) q = _
  by_cases ha : a ≤ 0xFFF
  · simp [ha, Memory.read_write, State.byte]
  · simp [ha, State.byte]

/-- A write of several bytes changes memory alone. -/
theorem State.setBytes_eq (a : Nat) (bs : List Byte) : ∃ m, s.setBytes a bs = { s with mem := m } := by
  induction bs generalizing s a with
  | nil => exact ⟨s.mem, rfl⟩
  | cons b bs ih =>
    obtain ⟨m, hm⟩ := ih (s.setByte a b) (a + 1)
    exact ⟨m, by rw [State.setBytes, hm]; rfl⟩

@[simp] theorem State.setBytes_v (a : Nat) (bs : List Byte) : (s.setBytes a bs).v = s.v := by
  obtain ⟨m, hm⟩ := s.setBytes_eq a bs
  rw [hm]

@[simp] theorem State.setBytes_i (a : Nat) (bs : List Byte) : (s.setBytes a bs).i = s.i := by
  obtain ⟨m, hm⟩ := s.setBytes_eq a bs
  rw [hm]

@[simp] theorem State.setBytes_pc (a : Nat) (bs : List Byte) : (s.setBytes a bs).pc = s.pc := by
  obtain ⟨m, hm⟩ := s.setBytes_eq a bs
  rw [hm]

@[simp] theorem State.setBytes_stack (a : Nat) (bs : List Byte) : (s.setBytes a bs).stack = s.stack := by
  obtain ⟨m, hm⟩ := s.setBytes_eq a bs
  rw [hm]

@[simp] theorem State.setBytes_depth (a : Nat) (bs : List Byte) : (s.setBytes a bs).depth = s.depth := by
  obtain ⟨m, hm⟩ := s.setBytes_eq a bs
  rw [hm]

@[simp] theorem State.setBytes_dt (a : Nat) (bs : List Byte) : (s.setBytes a bs).dt = s.dt := by
  obtain ⟨m, hm⟩ := s.setBytes_eq a bs
  rw [hm]

@[simp] theorem State.setBytes_st (a : Nat) (bs : List Byte) : (s.setBytes a bs).st = s.st := by
  obtain ⟨m, hm⟩ := s.setBytes_eq a bs
  rw [hm]

@[simp] theorem State.setBytes_fb (a : Nat) (bs : List Byte) : (s.setBytes a bs).fb = s.fb := by
  obtain ⟨m, hm⟩ := s.setBytes_eq a bs
  rw [hm]

@[simp] theorem State.setBytes_key (a : Nat) (bs : List Byte) : (s.setBytes a bs).key = s.key := by
  obtain ⟨m, hm⟩ := s.setBytes_eq a bs
  rw [hm]

@[simp] theorem State.setBytes_halt (a : Nat) (bs : List Byte) : (s.setBytes a bs).halt = s.halt := by
  obtain ⟨m, hm⟩ := s.setBytes_eq a bs
  rw [hm]

@[simp] theorem State.setBytes_redraw (a : Nat) (bs : List Byte) : (s.setBytes a bs).redraw = s.redraw := by
  obtain ⟨m, hm⟩ := s.setBytes_eq a bs
  rw [hm]

@[simp] theorem State.setBytes_wait (a : Nat) (bs : List Byte) : (s.setBytes a bs).wait = s.wait := by
  obtain ⟨m, hm⟩ := s.setBytes_eq a bs
  rw [hm]

@[simp] theorem State.setBytes_err (a : Nat) (bs : List Byte) : (s.setBytes a bs).err = s.err := by
  obtain ⟨m, hm⟩ := s.setBytes_eq a bs
  rw [hm]

@[simp] theorem State.setBytes_draws (a : Nat) (bs : List Byte) : (s.setBytes a bs).draws = s.draws := by
  obtain ⟨m, hm⟩ := s.setBytes_eq a bs
  rw [hm]

@[simp] theorem State.setBytes_font (a : Nat) (bs : List Byte) : (s.setBytes a bs).font = s.font := by
  obtain ⟨m, hm⟩ := s.setBytes_eq a bs
  rw [hm]

@[simp] theorem State.setBytes_reg (a : Nat) (bs : List Byte) (r : Nibble) : (s.setBytes a bs).reg r = s.reg r := by
  obtain ⟨m, hm⟩ := s.setBytes_eq a bs
  rw [hm]
  rfl

@[simp] theorem State.setBytes_sp (a : Nat) (bs : List Byte) : (s.setBytes a bs).sp = s.sp := by
  obtain ⟨m, hm⟩ := s.setBytes_eq a bs
  rw [hm]
  rfl

@[simp] theorem State.setBytes_pixel (a : Nat) (bs : List Byte) (px py : Nat) : (s.setBytes a bs).pixel px py = s.pixel px py := by
  obtain ⟨m, hm⟩ := s.setBytes_eq a bs
  rw [hm]
  rfl

@[simp] theorem State.setBytes_keyPressed (a : Nat) (bs : List Byte) (q : Nibble) : (s.setBytes a bs).keyPressed q = s.keyPressed q := by
  obtain ⟨m, hm⟩ := s.setBytes_eq a bs
  rw [hm]
  rfl

@[simp] theorem State.setBytes_unlisted (a : Nat) (bs : List Byte) : (s.setBytes a bs).unlisted = s.unlisted := by
  obtain ⟨m, hm⟩ := s.setBytes_eq a bs
  rw [hm]
  rfl

/-- MEM[q] after several bytes are written: the byte at its place in the list, or what was there. -/
theorem State.byte_setBytes (a q : Nat) (bs : List Byte) :
    (s.setBytes a bs).byte q = if a ≤ q ∧ q < a + bs.length ∧ q ≤ 0xFFF then bs.getD (q - a) 0 else s.byte q := by
  induction bs generalizing s a with
  | nil =>
    have : ¬ (a ≤ q ∧ q < a + ([] : List Byte).length ∧ q ≤ 0xFFF) := by simp; omega
    rw [if_neg this]
    rfl
  | cons b bs ih =>
    rw [State.setBytes, ih, State.byte_setByte]
    simp only [List.length_cons]
    by_cases hq : q = a
    · subst hq
      by_cases hr : q ≤ 0xFFF <;> simp [hr]
    · by_cases h : a + 1 ≤ q ∧ q < a + 1 + bs.length ∧ q ≤ 0xFFF
      · obtain ⟨k, rfl⟩ : ∃ k, q = a + 1 + k := ⟨q - (a + 1), by omega⟩
        have e1 : a + 1 + k - (a + 1) = k := by omega
        have e2 : a + 1 + k - a = k + 1 := by omega
        have h' : a ≤ a + 1 + k ∧ a + 1 + k < a + (bs.length + 1) ∧ a + 1 + k ≤ 0xFFF := by omega
        rw [if_pos h, if_pos h', e1, e2, List.getD_cons_succ]
      · have h' : ¬ (a ≤ q ∧ q < a + (bs.length + 1) ∧ q ≤ 0xFFF) := by omega
        rw [if_neg h, if_neg h', if_neg (by tauto)]

/-- Every write keeps memory in canonical form. -/
theorem State.setByte_wf {s : State} (h : Memory.wf s.unlisted s.mem) (a : Nat) (b : Byte) :
    Memory.wf (s.setByte a b).unlisted (s.setByte a b).mem := by
  change Memory.wf s.unlisted (if a ≤ 0xFFF then Memory.write s.unlisted s.mem a b else s.mem)
  split
  · exact Memory.wf_write h ‹_› b
  · exact h

/-- Every write of several bytes keeps memory in canonical form. -/
theorem State.setBytes_wf {s : State} (h : Memory.wf s.unlisted s.mem) (a : Nat) (bs : List Byte) :
    Memory.wf (s.setBytes a bs).unlisted (s.setBytes a bs).mem := by
  induction bs generalizing s a with
  | nil => exact h
  | cons b bs ih => exact ih (State.setByte_wf h a b) (a + 1)

theorem State.reset_wf : Memory.wf State.reset.unlisted State.reset.mem := Memory.wf_nil

@[simp] theorem State.length_bytes (a n : Nat) : (s.bytes a n).length = n := by
  induction n generalizing a with
  | zero => rfl
  | succ n ih => simp [State.bytes, ih]

theorem State.getD_bytes (a n k : Nat) (hk : k < n) : (s.bytes a n).getD k 0 = s.byte (a + k) := by
  induction n generalizing a k with
  | zero => omega
  | succ n ih =>
    cases k with
    | zero => simp [State.bytes]
    | succ k =>
      rw [State.bytes, List.getD_cons_succ, ih (a + 1) k (by omega)]
      congr 1
      omega

/-- A read of several bytes that stays within memory. -/
theorem State.memRead_ok {a n : Nat} (h : n = 0 ∨ a + n ≤ 0x1000) : s.memRead a n = .ok (s.bytes a n) := by
  simp [State.memRead, firstOutOfRange_eq_none.mpr h]

/-- R53: a read that passes 0xFFF reports the lowest address above it. -/
theorem State.memRead_error {a n : Nat} (hn : 0 < n) (h : 0x1000 < a + n) :
    s.memRead a n = .error (max a 0x1000) := by
  simp [State.memRead, firstOutOfRange_eq_some.mpr ⟨hn, h, rfl⟩]

/-- A write of several bytes that stays within memory. -/
theorem State.memWrite_ok {a : Nat} {bs : List Byte} (h : bs.length = 0 ∨ a + bs.length ≤ 0x1000) :
    s.memWrite a bs = .ok (s.setBytes a bs) := by
  simp only [State.memWrite, firstOutOfRange_eq_none.mpr h]

/-- R53: a write that passes 0xFFF reports the lowest address above it. -/
theorem State.memWrite_error {a : Nat} {bs : List Byte} (hn : 0 < bs.length) (h : 0x1000 < a + bs.length) :
    s.memWrite a bs = .error (max a 0x1000) := by
  simp only [State.memWrite, firstOutOfRange_eq_some.mpr ⟨hn, h, rfl⟩]

/-- Everything a read can answer. -/
theorem State.memRead_cases (a n : Nat) :
    ((n = 0 ∨ a + n ≤ 0x1000) ∧ s.memRead a n = .ok (s.bytes a n)) ∨
      (0 < n ∧ 0x1000 < a + n ∧ s.memRead a n = .error (max a 0x1000)) := by
  by_cases h : n = 0 ∨ a + n ≤ 0x1000
  · exact .inl ⟨h, s.memRead_ok h⟩
  · exact .inr ⟨by omega, by omega, s.memRead_error (by omega) (by omega)⟩

/-- Everything a write can answer. -/
theorem State.memWrite_cases (a : Nat) (bs : List Byte) :
    ((bs.length = 0 ∨ a + bs.length ≤ 0x1000) ∧ s.memWrite a bs = .ok (s.setBytes a bs)) ∨
      (0 < bs.length ∧ 0x1000 < a + bs.length ∧ s.memWrite a bs = .error (max a 0x1000)) := by
  by_cases h : bs.length = 0 ∨ a + bs.length ≤ 0x1000
  · exact .inl ⟨h, s.memWrite_ok h⟩
  · exact .inr ⟨by omega, by omega, s.memWrite_error (by omega) (by omega)⟩

/-! ## Fetch -/

/-- R81: within memory the fetch gives the two bytes at PC, the first one high. -/
theorem State.fetch_ok (h : s.pc.toNat ≤ 0xFFE) :
    s.fetch = .ok (joinBytes (s.byte s.pc.toNat) (s.byte (s.pc.toNat + 1))) := by
  have : firstOutOfRange s.pc.toNat 2 = none := firstOutOfRange_eq_none.mpr (by omega)
  simp [State.fetch, this]

/-- R81: past 0xFFE the fetch reports the lowest address above 0xFFF. -/
theorem State.fetch_error (h : 0xFFE < s.pc.toNat) : s.fetch = .error (max s.pc.toNat 0x1000) := by
  have : firstOutOfRange s.pc.toNat 2 = some (max s.pc.toNat 0x1000) :=
    firstOutOfRange_eq_some.mpr ⟨by omega, by omega, rfl⟩
  simp [State.fetch, this]

theorem State.pc_le_of_fetch {s : State} {op : Word} (h : s.fetch = .ok op) : s.pc.toNat ≤ 0xFFE := by
  by_contra hc
  rw [s.fetch_error (by omega)] at h
  cases h

/-! ## Stack -/

/-- R29: a push on a stack that is not full. -/
theorem State.push_some (w : Word) (h : s.depth.val < 16) :
    s.push w = some (s.setStack (s.stack.set s.depth.val w h) ⟨s.depth.val + 1, by omega⟩) := by
  simp [State.push, h]

theorem State.push_none (w : Word) (h : s.depth = 16) : s.push w = none := by
  simp [State.push, h]

/-- R29: a pop of a stack that is not empty; the slot keeps its value. -/
theorem State.pop_some (h : 0 < s.depth.val) :
    s.pop = some (s.stack[s.depth.val - 1]'(by omega), s.setStack s.stack ⟨s.depth.val - 1, by omega⟩) := by
  simp [State.pop, h]

theorem State.pop_none (h : s.depth = 0) : s.pop = none := by
  simp [State.pop, h]

/-! ## Several registers -/

/-- A load of several registers changes the register file alone. -/
theorem State.setRegs_eq (xs : List Nibble) (bs : List Byte) : ∃ v, s.setRegs xs bs = { s with v := v } := by
  induction xs generalizing s bs with
  | nil => exact ⟨s.v, by simp [State.setRegs]⟩
  | cons x xs ih =>
    cases bs with
    | nil => exact ⟨s.v, by simp [State.setRegs]⟩
    | cons b bs =>
      obtain ⟨v, hv⟩ := ih (s.setReg x b) bs
      exact ⟨v, by rw [State.setRegs, hv]; rfl⟩

@[simp] theorem State.setRegs_i (xs : List Nibble) (bs : List Byte) : (s.setRegs xs bs).i = s.i := by
  obtain ⟨m, hm⟩ := s.setRegs_eq xs bs
  rw [hm]

@[simp] theorem State.setRegs_pc (xs : List Nibble) (bs : List Byte) : (s.setRegs xs bs).pc = s.pc := by
  obtain ⟨m, hm⟩ := s.setRegs_eq xs bs
  rw [hm]

@[simp] theorem State.setRegs_stack (xs : List Nibble) (bs : List Byte) : (s.setRegs xs bs).stack = s.stack := by
  obtain ⟨m, hm⟩ := s.setRegs_eq xs bs
  rw [hm]

@[simp] theorem State.setRegs_depth (xs : List Nibble) (bs : List Byte) : (s.setRegs xs bs).depth = s.depth := by
  obtain ⟨m, hm⟩ := s.setRegs_eq xs bs
  rw [hm]

@[simp] theorem State.setRegs_dt (xs : List Nibble) (bs : List Byte) : (s.setRegs xs bs).dt = s.dt := by
  obtain ⟨m, hm⟩ := s.setRegs_eq xs bs
  rw [hm]

@[simp] theorem State.setRegs_st (xs : List Nibble) (bs : List Byte) : (s.setRegs xs bs).st = s.st := by
  obtain ⟨m, hm⟩ := s.setRegs_eq xs bs
  rw [hm]

@[simp] theorem State.setRegs_mem (xs : List Nibble) (bs : List Byte) : (s.setRegs xs bs).mem = s.mem := by
  obtain ⟨m, hm⟩ := s.setRegs_eq xs bs
  rw [hm]

@[simp] theorem State.setRegs_fb (xs : List Nibble) (bs : List Byte) : (s.setRegs xs bs).fb = s.fb := by
  obtain ⟨m, hm⟩ := s.setRegs_eq xs bs
  rw [hm]

@[simp] theorem State.setRegs_key (xs : List Nibble) (bs : List Byte) : (s.setRegs xs bs).key = s.key := by
  obtain ⟨m, hm⟩ := s.setRegs_eq xs bs
  rw [hm]

@[simp] theorem State.setRegs_halt (xs : List Nibble) (bs : List Byte) : (s.setRegs xs bs).halt = s.halt := by
  obtain ⟨m, hm⟩ := s.setRegs_eq xs bs
  rw [hm]

@[simp] theorem State.setRegs_redraw (xs : List Nibble) (bs : List Byte) : (s.setRegs xs bs).redraw = s.redraw := by
  obtain ⟨m, hm⟩ := s.setRegs_eq xs bs
  rw [hm]

@[simp] theorem State.setRegs_wait (xs : List Nibble) (bs : List Byte) : (s.setRegs xs bs).wait = s.wait := by
  obtain ⟨m, hm⟩ := s.setRegs_eq xs bs
  rw [hm]

@[simp] theorem State.setRegs_err (xs : List Nibble) (bs : List Byte) : (s.setRegs xs bs).err = s.err := by
  obtain ⟨m, hm⟩ := s.setRegs_eq xs bs
  rw [hm]

@[simp] theorem State.setRegs_draws (xs : List Nibble) (bs : List Byte) : (s.setRegs xs bs).draws = s.draws := by
  obtain ⟨m, hm⟩ := s.setRegs_eq xs bs
  rw [hm]

@[simp] theorem State.setRegs_font (xs : List Nibble) (bs : List Byte) : (s.setRegs xs bs).font = s.font := by
  obtain ⟨m, hm⟩ := s.setRegs_eq xs bs
  rw [hm]

@[simp] theorem State.setRegs_sp (xs : List Nibble) (bs : List Byte) : (s.setRegs xs bs).sp = s.sp := by
  obtain ⟨m, hm⟩ := s.setRegs_eq xs bs
  rw [hm]
  rfl

@[simp] theorem State.setRegs_pixel (xs : List Nibble) (bs : List Byte) (px py : Nat) : (s.setRegs xs bs).pixel px py = s.pixel px py := by
  obtain ⟨m, hm⟩ := s.setRegs_eq xs bs
  rw [hm]
  rfl

@[simp] theorem State.setRegs_keyPressed (xs : List Nibble) (bs : List Byte) (q : Nibble) : (s.setRegs xs bs).keyPressed q = s.keyPressed q := by
  obtain ⟨m, hm⟩ := s.setRegs_eq xs bs
  rw [hm]
  rfl

@[simp] theorem State.setRegs_unlisted (xs : List Nibble) (bs : List Byte) : (s.setRegs xs bs).unlisted = s.unlisted := by
  obtain ⟨m, hm⟩ := s.setRegs_eq xs bs
  rw [hm]
  rfl

@[simp] theorem State.setRegs_byte (xs : List Nibble) (bs : List Byte) (q : Nat) : (s.setRegs xs bs).byte q = s.byte q := by
  obtain ⟨m, hm⟩ := s.setRegs_eq xs bs
  rw [hm]
  rfl

/-- A register that is not loaded keeps its value. -/
theorem State.reg_setRegs_of_notMem {xs : List Nibble} (bs : List Byte) {r : Nibble} (h : r ∉ xs) :
    (s.setRegs xs bs).reg r = s.reg r := by
  induction xs generalizing s bs with
  | nil => simp [State.setRegs]
  | cons x xs ih =>
    cases bs with
    | nil => simp [State.setRegs]
    | cons b bs =>
      simp only [List.mem_cons, not_or] at h
      rw [State.setRegs, ih _ _ h.2, State.reg_setReg, if_neg h.1]

/-- A register in the list takes the byte at its place, when the list names no register twice. -/
theorem State.reg_setRegs_getElem {xs : List Nibble} {bs : List Byte} (hn : xs.Nodup) (hl : xs.length = bs.length)
    (k : Nat) (hk : k < xs.length) : (s.setRegs xs bs).reg xs[k] = bs.getD k 0 := by
  induction xs generalizing s bs k with
  | nil => simp at hk
  | cons x xs ih =>
    cases bs with
    | nil => simp at hl
    | cons b bs =>
      have ⟨hx, hn⟩ := List.nodup_cons.mp hn
      cases k with
      | zero => simp [State.setRegs, State.reg_setRegs_of_notMem _ _ hx]
      | succ k =>
        rw [State.setRegs, List.getD_cons_succ]
        exact ih _ hn (by simpa using hl) k (by simpa using hk)

@[simp] theorem length_registersUpTo (x : Nibble) : (registersUpTo x).length = x.toNat + 1 := by
  simp [registersUpTo]

theorem getElem_registersUpTo (x : Nibble) (k : Nat) (hk : k < (registersUpTo x).length) :
    (registersUpTo x)[k] = BitVec.ofNat 4 k := by
  simp [registersUpTo]

theorem mem_registersUpTo {x r : Nibble} : r ∈ registersUpTo x ↔ r.toNat ≤ x.toNat := by
  have hx := x.isLt
  simp only [registersUpTo, List.mem_map, List.mem_range]
  constructor
  · rintro ⟨k, hk, rfl⟩
    simp only [BitVec.toNat_ofNat]
    omega
  · intro h
    exact ⟨r.toNat, by omega, by simp⟩

theorem nodup_registersUpTo (x : Nibble) : (registersUpTo x).Nodup := by
  have hx := x.isLt
  refine (List.nodup_range).map_on fun a ha b hb hab => ?_
  simp only [List.mem_range] at ha hb
  have := congrArg BitVec.toNat hab
  simp only [BitVec.toNat_ofNat] at this
  omega

/-- FX65: V0 .. VX take the bytes in order, the other registers keep theirs. -/
theorem State.reg_setRegs_registersUpTo (x r : Nibble) (bs : List Byte) (hl : bs.length = x.toNat + 1) :
    (s.setRegs (registersUpTo x) bs).reg r = if r.toNat ≤ x.toNat then bs.getD r.toNat 0 else s.reg r := by
  split
  · have hk : r.toNat < (registersUpTo x).length := by simp; omega
    have := s.reg_setRegs_getElem (bs := bs) (nodup_registersUpTo x) (by simp [hl]) r.toNat hk
    rw [getElem_registersUpTo] at this
    simpa using this
  · exact s.reg_setRegs_of_notMem _ (by rw [mem_registersUpTo]; assumption)

/-- FX55: the bytes stored are the registers in order. -/
theorem getD_map_registersUpTo (x : Nibble) (f : Nibble → Byte) (k : Nat) (hk : k ≤ x.toNat) :
    ((registersUpTo x).map f).getD k 0 = f (BitVec.ofNat 4 k) := by
  rw [List.getD_eq_getElem _ _ (by simp; omega), List.getElem_map, getElem_registersUpTo]

end Sys2Proof.Machine
end

