-- ==== Sys2Proof/Laws/Display.lean ====
section
/-! SUPPORT. The sprite drawing of R121, pixel by pixel: which pixels it toggles, and that no pixel is toggled twice in one
DXYN. -/

namespace Sys2Proof.Machine

/-- A pixel after one toggle. -/
theorem framePixel_togglePixel (fb : Vector (BitVec 64) 32) {x y : Nat} (hx : x < 64) (hy : y < 32) (px py : Nat) :
    framePixel (togglePixel fb x y) px py = (framePixel fb px py ^^ (decide (px = x) && decide (py = y))) := by
  unfold framePixel togglePixel
  by_cases h : py < 32
  · by_cases hp : py = y
    · subst hp
      simp [h, BitVec.getLsbD_twoPow, hx, eq_comm]
    · simp [h, hy, hp, Ne.symm hp]
  · have : py ≠ y := by omega
    simp [h, this]

/-- Framebuffers with the same pixels are the same framebuffer. -/
theorem frame_ext {fb fb' : Vector (BitVec 64) 32}
    (h : ∀ px < 64, ∀ py < 32, framePixel fb px py = framePixel fb' px py) : fb = fb' := by
  apply Vector.ext
  intro y hy
  apply BitVec.eq_of_getLsbD_eq
  intro x hx
  simpa [framePixel, hy] using h x hx y hy

/-- The pixel is one that column `c` of this sprite row toggles. -/
def columnCovers (x0 y : Nat) (row : Byte) (px py c : Nat) : Bool :=
  spriteBit row c && (decide (px = spriteColumn x0 c) && decide (py = y))

/-- The pixel is one that this sprite row toggles. -/
def rowCovers (x0 y : Nat) (row : Byte) (px py : Nat) : Bool :=
  (List.range 8).any (columnCovers x0 y row px py)

/-- The pixel is one that these sprite rows toggle, the first one being row `r`. -/
def rowsCover (x0 y0 : Nat) : List Byte → Nat → Nat → Nat → Bool
  | [], _, _, _ => false
  | row :: rows, r, px, py => rowCovers x0 (spriteRow y0 r) row px py || rowsCover x0 y0 rows (r + 1) px py

theorem rowCovers_iff (x0 y : Nat) (row : Byte) (px py : Nat) :
    rowCovers x0 y row px py = true ↔ ∃ c < 8, spriteBit row c = true ∧ px = spriteColumn x0 c ∧ py = y := by
  simp [rowCovers, columnCovers, List.any_eq_true]

theorem rowsCover_iff (x0 y0 : Nat) (rows : List Byte) (r px py : Nat) :
    rowsCover x0 y0 rows r px py = true ↔
      ∃ k < rows.length, rowCovers x0 (spriteRow y0 (r + k)) (rows.getD k 0) px py = true := by
  induction rows generalizing r with
  | nil => simp [rowsCover]
  | cons row rows ih =>
    rw [rowsCover, Bool.or_eq_true, ih]
    constructor
    · rintro (h | ⟨k, hk, h⟩)
      · exact ⟨0, by simp, by simpa using h⟩
      · exact ⟨k + 1, by simpa using hk, by rw [List.getD_cons_succ]; rwa [show r + (k + 1) = r + 1 + k by omega]⟩
    · rintro ⟨k, hk, h⟩
      cases k with
      | zero => exact .inl (by simpa using h)
      | succ k =>
        rw [List.getD_cons_succ, show r + (k + 1) = r + 1 + k by omega] at h
        exact .inr ⟨k, by simpa using hk, h⟩

/-- A pixel of a column of the row, before or after another column is drawn. -/
theorem framePixel_drawPixel (x0 : Nat) {y : Nat} (hy : y < 32) (row : Byte) (acc : Vector (BitVec 64) 32 × Bool)
    (c px py : Nat) :
    framePixel (drawPixel x0 y row acc c).1 px py = (framePixel acc.1 px py ^^ columnCovers x0 y row px py c) := by
  have hc : spriteColumn x0 c < 64 := Nat.mod_lt _ (by decide)
  unfold drawPixel columnCovers
  by_cases hb : spriteBit row c = true
  · simp [hb, framePixel_togglePixel _ hc hy]
  · simp [hb]

/-- Two of the eight columns of a row are two columns of the display. -/
theorem spriteColumn_inj (x0 : Nat) {c d : Nat} (hc : c < 8) (hd : d < 8)
    (h : spriteColumn x0 c = spriteColumn x0 d) : c = d := by
  unfold spriteColumn at h
  omega

/-- Two of at most 32 rows of a sprite are two rows of the display. -/
theorem spriteRow_inj (y0 : Nat) {r k : Nat} (hr : r < 32) (hk : k < 32)
    (h : spriteRow y0 r = spriteRow y0 k) : r = k := by
  unfold spriteRow at h
  omega

theorem foldl_drawPixel (x0 : Nat) {y : Nat} (hy : y < 32) (row : Byte) (cs : List Nat) (hn : cs.Nodup)
    (h8 : ∀ c ∈ cs, c < 8) (acc : Vector (BitVec 64) 32 × Bool) :
    (∀ px py, framePixel (cs.foldl (drawPixel x0 y row) acc).1 px py =
      (framePixel acc.1 px py ^^ cs.any (columnCovers x0 y row px py))) ∧
    (cs.foldl (drawPixel x0 y row) acc).2 =
      (acc.2 || cs.any fun c => spriteBit row c && framePixel acc.1 (spriteColumn x0 c) y) := by
  induction cs generalizing acc with
  | nil => simp
  | cons c cs ih =>
    have ⟨hc, hn⟩ := List.nodup_cons.mp hn
    have hlt : ∀ d ∈ cs, d < 8 := fun d hd => h8 d (List.mem_cons_of_mem _ hd)
    have hc8 : c < 8 := h8 c List.mem_cons_self
    have ⟨ih1, ih2⟩ := ih hn hlt (drawPixel x0 y row acc c)
    have hne : ∀ d ∈ cs, spriteColumn x0 d ≠ spriteColumn x0 c := fun d hd he =>
      hc (spriteColumn_inj x0 (hlt d hd) hc8 he ▸ hd)
    constructor
    · intro px py
      rw [List.foldl_cons, ih1, framePixel_drawPixel x0 hy, List.any_cons]
      by_cases h1 : columnCovers x0 y row px py c = true
      · have : cs.any (columnCovers x0 y row px py) = false := by
          simp only [List.any_eq_false]
          intro d hd h2
          simp only [columnCovers, Bool.and_eq_true, decide_eq_true_eq] at h1 h2
          exact hne d hd (h2.2.1.symm.trans h1.2.1)
        simp [h1, this]
      · simp only [Bool.not_eq_true] at h1
        simp [h1]
    · rw [List.foldl_cons, ih2, List.any_cons]
      have hsame : (cs.any fun d => spriteBit row d && framePixel (drawPixel x0 y row acc c).1 (spriteColumn x0 d) y) =
          cs.any fun d => spriteBit row d && framePixel acc.1 (spriteColumn x0 d) y := by
        rw [Bool.eq_iff_iff, List.any_eq_true, List.any_eq_true]
        refine exists_congr fun d => and_congr_right fun hd => ?_
        rw [framePixel_drawPixel x0 hy]
        simp [columnCovers, hne d hd]
      rw [hsame]
      unfold drawPixel
      by_cases hb : spriteBit row c = true <;> simp [hb, Bool.or_assoc]

/-- One sprite row: each pixel it covers is toggled, and a collision is a covered pixel that was set. -/
theorem drawRow_spec (x0 : Nat) {y : Nat} (hy : y < 32) (row : Byte) (acc : Vector (BitVec 64) 32 × Bool) :
    (∀ px py, framePixel (drawRow x0 y row acc).1 px py = (framePixel acc.1 px py ^^ rowCovers x0 y row px py)) ∧
    ((drawRow x0 y row acc).2 = true ↔
      acc.2 = true ∨ ∃ px py, framePixel acc.1 px py = true ∧ rowCovers x0 y row px py = true) := by
  have ⟨h1, h2⟩ := foldl_drawPixel x0 hy row (List.range 8) List.nodup_range (fun c => List.mem_range.mp) acc
  refine ⟨h1, ?_⟩
  rw [drawRow, h2, Bool.or_eq_true, List.any_eq_true]
  refine or_congr_right ⟨?_, ?_⟩
  · rintro ⟨c, hc, h⟩
    simp only [Bool.and_eq_true, List.mem_range] at h hc
    exact ⟨_, _, h.2, (rowCovers_iff ..).mpr ⟨c, hc, h.1, rfl, rfl⟩⟩
  · rintro ⟨px, py, hp, h⟩
    obtain ⟨c, hc, hb, rfl, rfl⟩ := (rowCovers_iff ..).mp h
    exact ⟨c, List.mem_range.mpr hc, by simp [hb, hp]⟩

/-- Several sprite rows, at most 32 in all: each pixel they cover is toggled once, and a collision is a covered pixel
that was set before. -/
theorem drawRows_spec (x0 y0 : Nat) (rows : List Byte) (r : Nat) (hr : r + rows.length ≤ 32)
    (acc : Vector (BitVec 64) 32 × Bool) :
    (∀ px py, framePixel (drawRows x0 y0 rows r acc).1 px py =
      (framePixel acc.1 px py ^^ rowsCover x0 y0 rows r px py)) ∧
    ((drawRows x0 y0 rows r acc).2 = true ↔
      acc.2 = true ∨ ∃ px py, framePixel acc.1 px py = true ∧ rowsCover x0 y0 rows r px py = true) := by
  induction rows generalizing r acc with
  | nil => simp [drawRows, rowsCover]
  | cons row rows ih =>
    simp only [List.length_cons] at hr
    have hy : spriteRow y0 r < 32 := Nat.mod_lt _ (by decide)
    have ⟨d1, d2⟩ := drawRow_spec x0 hy row acc
    have ⟨i1, i2⟩ := ih (r + 1) (by omega) (drawRow x0 (spriteRow y0 r) row acc)
    have hdisj : ∀ px py, rowCovers x0 (spriteRow y0 r) row px py = true →
        rowsCover x0 y0 rows (r + 1) px py = false := by
      intro px py h
      by_contra hc
      obtain ⟨c, _, _, _, h1⟩ := (rowCovers_iff ..).mp h
      obtain ⟨k, hk, h2⟩ := (rowsCover_iff ..).mp (by simpa using hc)
      obtain ⟨c', _, _, _, h3⟩ := (rowCovers_iff ..).mp h2
      have := spriteRow_inj y0 (by omega) (by omega) (h1.symm.trans h3)
      omega
    constructor
    · intro px py
      rw [drawRows, i1, d1, rowsCover]
      by_cases h : rowCovers x0 (spriteRow y0 r) row px py = true
      · simp [h, hdisj px py h]
      · simp only [Bool.not_eq_true] at h
        simp [h]
    · rw [drawRows, i2, d2, or_assoc]
      refine or_congr_right ⟨?_, ?_⟩
      · rintro (⟨px, py, hp, h⟩ | ⟨px, py, hp, h⟩)
        · exact ⟨px, py, hp, by simp [rowsCover, h]⟩
        · refine ⟨px, py, ?_, by simp [rowsCover, h]⟩
          have hno : rowCovers x0 (spriteRow y0 r) row px py = false := by
            by_contra hc
            simp [hdisj px py (by simpa using hc)] at h
          simpa [d1, hno] using hp
      · rintro ⟨px, py, hp, h⟩
        by_cases hc : rowCovers x0 (spriteRow y0 r) row px py = true
        · exact .inl ⟨px, py, hp, hc⟩
        · simp only [Bool.not_eq_true] at hc
          exact .inr ⟨px, py, by simpa [d1, hc] using hp, by simpa [rowsCover, hc] using h⟩

/-- R121: DXYN toggles each pixel the sprite covers, once, and reports a collision when one of them was set. -/
theorem drawSprite_spec (fb : Vector (BitVec 64) 32) (x0 y0 : Nat) (rows : List Byte) (hr : rows.length ≤ 32) :
    (∀ px py, framePixel (drawSprite fb x0 y0 rows).1 px py = (framePixel fb px py ^^ rowsCover x0 y0 rows 0 px py)) ∧
    ((drawSprite fb x0 y0 rows).2 = true ↔
      ∃ px py, framePixel fb px py = true ∧ rowsCover x0 y0 rows 0 px py = true) := by
  have ⟨h1, h2⟩ := drawRows_spec x0 y0 rows 0 (by omega) (fb, false)
  exact ⟨h1, by simpa [drawSprite] using h2⟩

end Sys2Proof.Machine
end

