-- ==== Sys2Proof/Laws/Exec.lean ====
section
/-! SUPPORT. `exec` arm by arm, the outcome of each meaning that cannot raise an error, and a Step by its cases. -/

namespace Sys2Proof.Machine

section

variable (s : State)

@[simp] theorem exec_cls : exec .cls s = execCls s := rfl
@[simp] theorem exec_ret : exec .ret s = execRet s := rfl
@[simp] theorem exec_jp (nnn : Addr12) : exec (.jp nnn) s = execJp nnn s := rfl
@[simp] theorem exec_call (nnn : Addr12) : exec (.call nnn) s = execCall nnn s := rfl
@[simp] theorem exec_seImm (x : Nibble) (nn : Byte) : exec (.seImm x nn) s = execSeImm x nn s := rfl
@[simp] theorem exec_sneImm (x : Nibble) (nn : Byte) : exec (.sneImm x nn) s = execSneImm x nn s := rfl
@[simp] theorem exec_seReg (x : Nibble) (y : Nibble) : exec (.seReg x y) s = execSeReg x y s := rfl
@[simp] theorem exec_ldImm (x : Nibble) (nn : Byte) : exec (.ldImm x nn) s = execLdImm x nn s := rfl
@[simp] theorem exec_addImm (x : Nibble) (nn : Byte) : exec (.addImm x nn) s = execAddImm x nn s := rfl
@[simp] theorem exec_ldReg (x : Nibble) (y : Nibble) : exec (.ldReg x y) s = execLdReg x y s := rfl
@[simp] theorem exec_orReg (x : Nibble) (y : Nibble) : exec (.orReg x y) s = execOrReg x y s := rfl
@[simp] theorem exec_andReg (x : Nibble) (y : Nibble) : exec (.andReg x y) s = execAndReg x y s := rfl
@[simp] theorem exec_xorReg (x : Nibble) (y : Nibble) : exec (.xorReg x y) s = execXorReg x y s := rfl
@[simp] theorem exec_addReg (x : Nibble) (y : Nibble) : exec (.addReg x y) s = execAddReg x y s := rfl
@[simp] theorem exec_subReg (x : Nibble) (y : Nibble) : exec (.subReg x y) s = execSubReg x y s := rfl
@[simp] theorem exec_shr (x : Nibble) (y : Nibble) : exec (.shr x y) s = execShr x y s := rfl
@[simp] theorem exec_subn (x : Nibble) (y : Nibble) : exec (.subn x y) s = execSubn x y s := rfl
@[simp] theorem exec_shl (x : Nibble) (y : Nibble) : exec (.shl x y) s = execShl x y s := rfl
@[simp] theorem exec_sneReg (x : Nibble) (y : Nibble) : exec (.sneReg x y) s = execSneReg x y s := rfl
@[simp] theorem exec_ldI (nnn : Addr12) : exec (.ldI nnn) s = execLdI nnn s := rfl
@[simp] theorem exec_jpV0 (nnn : Addr12) : exec (.jpV0 nnn) s = execJpV0 nnn s := rfl
@[simp] theorem exec_rnd (x : Nibble) (nn : Byte) : exec (.rnd x nn) s = execRnd x nn s := rfl
@[simp] theorem exec_drw (x : Nibble) (y : Nibble) (n : Nibble) : exec (.drw x y n) s = execDrw x y n s := rfl
@[simp] theorem exec_skp (x : Nibble) : exec (.skp x) s = execSkp x s := rfl
@[simp] theorem exec_sknp (x : Nibble) : exec (.sknp x) s = execSknp x s := rfl
@[simp] theorem exec_ldVxDt (x : Nibble) : exec (.ldVxDt x) s = execLdVxDt x s := rfl
@[simp] theorem exec_ldVxK (x : Nibble) : exec (.ldVxK x) s = execLdVxK x s := rfl
@[simp] theorem exec_ldDtVx (x : Nibble) : exec (.ldDtVx x) s = execLdDtVx x s := rfl
@[simp] theorem exec_ldStVx (x : Nibble) : exec (.ldStVx x) s = execLdStVx x s := rfl
@[simp] theorem exec_addI (x : Nibble) : exec (.addI x) s = execAddI x s := rfl
@[simp] theorem exec_ldF (x : Nibble) : exec (.ldF x) s = execLdF x s := rfl
@[simp] theorem exec_ldB (x : Nibble) : exec (.ldB x) s = execLdB x s := rfl
@[simp] theorem exec_storeRegs (x : Nibble) : exec (.storeRegs x) s = execStoreRegs x s := rfl
@[simp] theorem exec_loadRegs (x : Nibble) : exec (.loadRegs x) s = execLoadRegs x s := rfl
/-! ### `State.finishResult` -/

@[simp] theorem State.finishResult_i (x : Nibble) (b : Byte) : (s.finishResult x b).i = s.i := rfl
@[simp] theorem State.finishResult_pc (x : Nibble) (b : Byte) : (s.finishResult x b).pc = s.pc + 2 := rfl
@[simp] theorem State.finishResult_stack (x : Nibble) (b : Byte) : (s.finishResult x b).stack = s.stack := rfl
@[simp] theorem State.finishResult_depth (x : Nibble) (b : Byte) : (s.finishResult x b).depth = s.depth := rfl
@[simp] theorem State.finishResult_dt (x : Nibble) (b : Byte) : (s.finishResult x b).dt = s.dt := rfl
@[simp] theorem State.finishResult_st (x : Nibble) (b : Byte) : (s.finishResult x b).st = s.st := rfl
@[simp] theorem State.finishResult_mem (x : Nibble) (b : Byte) : (s.finishResult x b).mem = s.mem := rfl
@[simp] theorem State.finishResult_fb (x : Nibble) (b : Byte) : (s.finishResult x b).fb = s.fb := rfl
@[simp] theorem State.finishResult_key (x : Nibble) (b : Byte) : (s.finishResult x b).key = s.key := rfl
@[simp] theorem State.finishResult_halt (x : Nibble) (b : Byte) : (s.finishResult x b).halt = s.halt := rfl
@[simp] theorem State.finishResult_redraw (x : Nibble) (b : Byte) : (s.finishResult x b).redraw = s.redraw := rfl
@[simp] theorem State.finishResult_wait (x : Nibble) (b : Byte) : (s.finishResult x b).wait = s.wait := rfl
@[simp] theorem State.finishResult_err (x : Nibble) (b : Byte) : (s.finishResult x b).err = s.err := rfl
@[simp] theorem State.finishResult_draws (x : Nibble) (b : Byte) : (s.finishResult x b).draws = s.draws := rfl
@[simp] theorem State.finishResult_font (x : Nibble) (b : Byte) : (s.finishResult x b).font = s.font := rfl
@[simp] theorem State.finishResult_sp (x : Nibble) (b : Byte) : (s.finishResult x b).sp = s.sp := rfl
@[simp] theorem State.finishResult_pixel (x : Nibble) (b : Byte) (px py : Nat) : (s.finishResult x b).pixel px py = s.pixel px py := rfl
@[simp] theorem State.finishResult_keyPressed (x : Nibble) (b : Byte) (q : Nibble) : (s.finishResult x b).keyPressed q = s.keyPressed q := rfl
@[simp] theorem State.finishResult_unlisted (x : Nibble) (b : Byte) : (s.finishResult x b).unlisted = s.unlisted := rfl
@[simp] theorem State.finishResult_byte (x : Nibble) (b : Byte) (q : Nat) : (s.finishResult x b).byte q = s.byte q := rfl
@[simp] theorem State.finishResult_reg (x : Nibble) (b : Byte) (r : Nibble) :
    (s.finishResult x b).reg r = if r = x then b else s.reg r := s.reg_setReg x r b

/-! ### `State.finishFlagged` -/

@[simp] theorem State.finishFlagged_i (x : Nibble) (b : Byte) (c : Bool) : (s.finishFlagged x b c).i = s.i := rfl
@[simp] theorem State.finishFlagged_pc (x : Nibble) (b : Byte) (c : Bool) : (s.finishFlagged x b c).pc = s.pc + 2 := rfl
@[simp] theorem State.finishFlagged_stack (x : Nibble) (b : Byte) (c : Bool) : (s.finishFlagged x b c).stack = s.stack := rfl
@[simp] theorem State.finishFlagged_depth (x : Nibble) (b : Byte) (c : Bool) : (s.finishFlagged x b c).depth = s.depth := rfl
@[simp] theorem State.finishFlagged_dt (x : Nibble) (b : Byte) (c : Bool) : (s.finishFlagged x b c).dt = s.dt := rfl
@[simp] theorem State.finishFlagged_st (x : Nibble) (b : Byte) (c : Bool) : (s.finishFlagged x b c).st = s.st := rfl
@[simp] theorem State.finishFlagged_mem (x : Nibble) (b : Byte) (c : Bool) : (s.finishFlagged x b c).mem = s.mem := rfl
@[simp] theorem State.finishFlagged_fb (x : Nibble) (b : Byte) (c : Bool) : (s.finishFlagged x b c).fb = s.fb := rfl
@[simp] theorem State.finishFlagged_key (x : Nibble) (b : Byte) (c : Bool) : (s.finishFlagged x b c).key = s.key := rfl
@[simp] theorem State.finishFlagged_halt (x : Nibble) (b : Byte) (c : Bool) : (s.finishFlagged x b c).halt = s.halt := rfl
@[simp] theorem State.finishFlagged_redraw (x : Nibble) (b : Byte) (c : Bool) : (s.finishFlagged x b c).redraw = s.redraw := rfl
@[simp] theorem State.finishFlagged_wait (x : Nibble) (b : Byte) (c : Bool) : (s.finishFlagged x b c).wait = s.wait := rfl
@[simp] theorem State.finishFlagged_err (x : Nibble) (b : Byte) (c : Bool) : (s.finishFlagged x b c).err = s.err := rfl
@[simp] theorem State.finishFlagged_draws (x : Nibble) (b : Byte) (c : Bool) : (s.finishFlagged x b c).draws = s.draws := rfl
@[simp] theorem State.finishFlagged_font (x : Nibble) (b : Byte) (c : Bool) : (s.finishFlagged x b c).font = s.font := rfl
@[simp] theorem State.finishFlagged_sp (x : Nibble) (b : Byte) (c : Bool) : (s.finishFlagged x b c).sp = s.sp := rfl
@[simp] theorem State.finishFlagged_pixel (x : Nibble) (b : Byte) (c : Bool) (px py : Nat) : (s.finishFlagged x b c).pixel px py = s.pixel px py := rfl
@[simp] theorem State.finishFlagged_keyPressed (x : Nibble) (b : Byte) (c : Bool) (q : Nibble) : (s.finishFlagged x b c).keyPressed q = s.keyPressed q := rfl
@[simp] theorem State.finishFlagged_unlisted (x : Nibble) (b : Byte) (c : Bool) : (s.finishFlagged x b c).unlisted = s.unlisted := rfl
@[simp] theorem State.finishFlagged_byte (x : Nibble) (b : Byte) (c : Bool) (q : Nat) : (s.finishFlagged x b c).byte q = s.byte q := rfl
@[simp] theorem State.finishFlagged_reg (x : Nibble) (b : Byte) (c : Bool) (r : Nibble) :
    (s.finishFlagged x b c).reg r = if r = 0xF then flagByte c else if r = x then b else s.reg r := by
  simp [State.finishFlagged]

end

/-- A Step of a running machine whose word decodes is the instruction's execution (R80). -/
theorem step_of_decoded {s : State} {op : Word} {i : Instr} (hh : s.halt = false) (hw : s.wait = none)
    (hf : s.fetch = .ok op) (hd : decodeWord op = .ok i) : step s = exec i s := by
  simp [step, hh, hw, hf, hd]

/-- Everything a Step can be (R80, R280): idle, a fetch out of range, an invalid word, or an execution. -/
theorem step_cases (s : State) :
    ((s.halt = true ∨ s.wait ≠ none) ∧ step s = .next s) ∨
    (s.halt = false ∧ s.wait = none ∧
      ((∃ a, s.fetch = .error a ∧ step s = .next (s.raise .addressOutOfRange none (some a))) ∨
       ∃ op, s.fetch = .ok op ∧
        ((∃ e, decodeWord op = .error e ∧ step s = .next (s.raise .invalidOpcode (some op) none)) ∨
         ∃ i, decodeWord op = .ok i ∧ step s = exec i s))) := by
  by_cases hh : s.halt = true
  · exact .inl ⟨.inl hh, by simp [step, hh]⟩
  · simp only [Bool.not_eq_true] at hh
    cases hw : s.wait with
    | some x => exact .inl ⟨.inr (by simp), by simp [step, hh, hw]⟩
    | none =>
      refine .inr ⟨hh, rfl, ?_⟩
      cases hf : s.fetch with
      | error a => exact .inl ⟨a, rfl, by simp [step, hh, hw, hf]⟩
      | ok op =>
        refine .inr ⟨op, rfl, ?_⟩
        cases hd : decodeWord op with
        | error e => exact .inl ⟨e, rfl, by simp [step, hh, hw, hf, hd]⟩
        | ok i => exact .inr ⟨i, rfl, by simp [step, hh, hw, hf, hd]⟩

/-! ## Meanings with a check of their own -/

/-- 00EE: the two ways it ends (R140). -/
theorem execRet_cases (s : State) :
    (s.depth = 0 ∧ execRet s = .next (s.raiseFrom .ret .stackUnderflow none)) ∨
    (∃ h : 0 < s.depth.val, execRet s = .next ((s.setStack s.stack ⟨s.depth.val - 1, by omega⟩).setPc
      (s.stack[s.depth.val - 1]'(by omega)))) := by
  by_cases h : 0 < s.depth.val
  · exact .inr ⟨h, by simp [execRet, s.pop_some h]⟩
  · have h0 : s.depth = 0 := Fin.ext (by simp; omega)
    exact .inl ⟨h0, by simp [execRet, s.pop_none h0]⟩

/-- 2NNN: the two ways it ends (R142). -/
theorem execCall_cases (nnn : Addr12) (s : State) :
    (s.depth = 16 ∧ execCall nnn s = .next (s.raiseFrom (.call nnn) .stackOverflow none)) ∨
    (∃ h : s.depth.val < 16, execCall nnn s = .next ((s.setStack
      (s.stack.set s.depth.val (s.pc + 2) h) ⟨s.depth.val + 1, by omega⟩).setPc (zextAddr nnn))) := by
  by_cases h : s.depth.val < 16
  · exact .inr ⟨h, by simp [execCall, s.push_some _ h]⟩
  · have h16 : s.depth = 16 := Fin.ext (by simp; omega)
    exact .inl ⟨h16, by simp [execCall, s.push_none _ h16]⟩

/-- DXYN: the two ways it ends (R121). -/
theorem execDrw_cases (x y n : Nibble) (s : State) :
    ((n.toNat = 0 ∨ s.i.toNat + n.toNat ≤ 0x1000) ∧ execDrw x y n s = .next
      ((((s.setFb (drawSprite s.fb (startColumn (s.reg x)) (startRow (s.reg y)) (s.bytes s.i.toNat n.toNat)).1).setRedraw
        true).setReg 0xF (flagByte
          (drawSprite s.fb (startColumn (s.reg x)) (startRow (s.reg y)) (s.bytes s.i.toNat n.toNat)).2)).advance 2)) ∨
    (0 < n.toNat ∧ 0x1000 < s.i.toNat + n.toNat ∧
      execDrw x y n s = .next (s.raiseFrom (.drw x y n) .addressOutOfRange (some (max s.i.toNat 0x1000)))) := by
  rcases s.memRead_cases s.i.toNat n.toNat with ⟨h, he⟩ | ⟨h0, h, he⟩
  · exact .inl ⟨h, by simp [execDrw, he]⟩
  · exact .inr ⟨h0, h, by simp [execDrw, he]⟩

/-- FX33: the two ways it ends (R203). -/
theorem execLdB_cases (x : Nibble) (s : State) :
    (s.i.toNat + 3 ≤ 0x1000 ∧
      execLdB x s = .next ((s.setBytes s.i.toNat (bcdDigits (s.reg x))).advance 2)) ∨
    (0x1000 < s.i.toNat + 3 ∧
      execLdB x s = .next (s.raiseFrom (.ldB x) .addressOutOfRange (some (max s.i.toNat 0x1000)))) := by
  have hl : (bcdDigits (s.reg x)).length = 3 := rfl
  rcases s.memWrite_cases s.i.toNat (bcdDigits (s.reg x)) with ⟨h, he⟩ | ⟨h0, h, he⟩
  · exact .inl ⟨by omega, by simp [execLdB, he]⟩
  · exact .inr ⟨by omega, by simp [execLdB, he]⟩

/-- FX55: the two ways it ends (R204). -/
theorem execStoreRegs_cases (x : Nibble) (s : State) :
    (s.i.toNat + x.toNat + 1 ≤ 0x1000 ∧
      execStoreRegs x s = .next ((s.setBytes s.i.toNat ((registersUpTo x).map s.reg)).advance 2)) ∨
    (0x1000 < s.i.toNat + x.toNat + 1 ∧
      execStoreRegs x s = .next (s.raiseFrom (.storeRegs x) .addressOutOfRange (some (max s.i.toNat 0x1000)))) := by
  have hl : ((registersUpTo x).map s.reg).length = x.toNat + 1 := by simp
  rcases s.memWrite_cases s.i.toNat ((registersUpTo x).map s.reg) with ⟨h, he⟩ | ⟨h0, h, he⟩
  · exact .inl ⟨by omega, by simp [execStoreRegs, he]⟩
  · exact .inr ⟨by omega, by simp [execStoreRegs, he]⟩

/-- FX65: the two ways it ends (R205). -/
theorem execLoadRegs_cases (x : Nibble) (s : State) :
    (s.i.toNat + x.toNat + 1 ≤ 0x1000 ∧
      execLoadRegs x s =
        .next ((s.setRegs (registersUpTo x) (s.bytes s.i.toNat (x.toNat + 1))).advance 2)) ∨
    (0x1000 < s.i.toNat + x.toNat + 1 ∧
      execLoadRegs x s = .next (s.raiseFrom (.loadRegs x) .addressOutOfRange (some (max s.i.toNat 0x1000)))) := by
  rcases s.memRead_cases s.i.toNat (x.toNat + 1) with ⟨h, he⟩ | ⟨h0, h, he⟩
  · exact .inl ⟨by omega, by simp [execLoadRegs, he]⟩
  · exact .inr ⟨by omega, by simp [execLoadRegs, he]⟩

theorem keyIndex_cases (b : Byte) :
    (b.toNat ≤ 0xF ∧ keyIndex b = some (b.setWidth 4)) ∨ (0xF < b.toNat ∧ keyIndex b = none) := by
  unfold keyIndex
  split
  · exact .inl ⟨‹_›, rfl⟩
  · exact .inr ⟨by omega, rfl⟩

/-- EX9E: the two ways it ends (R230). -/
theorem execSkp_cases (x : Nibble) (s : State) :
    ((s.reg x).toNat ≤ 0xF ∧ execSkp x s = .next (s.skipIf (s.keyPressed ((s.reg x).setWidth 4)))) ∨
    (0xF < (s.reg x).toNat ∧
      execSkp x s = .next (s.raiseFrom (.skp x) .keyIndexOutOfRange (some (s.reg x).toNat))) := by
  rcases keyIndex_cases (s.reg x) with ⟨h, he⟩ | ⟨h, he⟩
  · exact .inl ⟨h, by simp [execSkp, he]⟩
  · exact .inr ⟨h, by simp [execSkp, he]⟩

/-- EXA1: the two ways it ends (R231). -/
theorem execSknp_cases (x : Nibble) (s : State) :
    ((s.reg x).toNat ≤ 0xF ∧ execSknp x s = .next (s.skipIf (!s.keyPressed ((s.reg x).setWidth 4)))) ∨
    (0xF < (s.reg x).toNat ∧
      execSknp x s = .next (s.raiseFrom (.sknp x) .keyIndexOutOfRange (some (s.reg x).toNat))) := by
  rcases keyIndex_cases (s.reg x) with ⟨h, he⟩ | ⟨h, he⟩
  · exact .inl ⟨h, by simp [execSknp, he]⟩
  · exact .inr ⟨h, by simp [execSknp, he]⟩

/-! ## Frames -/

theorem samePart_refl (p : Part) (s : State) : SamePart p s s := by
  cases p <;> simp [SamePart]

theorem samePart_trans {p : Part} {s t u : State} (h : SamePart p s t) (h' : SamePart p t u) : SamePart p s u := by
  cases p <;> simp_all [SamePart]

theorem frameBut_refl (changed : List Part) (s : State) : FrameBut changed s s :=
  fun p _ => samePart_refl p s

theorem frameBut_trans {changed : List Part} {s t u : State} (h : FrameBut changed s t) (h' : FrameBut changed t u) :
    FrameBut changed s u :=
  fun p hp => samePart_trans (h p hp) (h' p hp)

/-- More may change where less did. -/
theorem frameBut_mono {few many : List Part} {s t : State} (hm : ∀ p ∈ few, p ∈ many) (h : FrameBut few s t) :
    FrameBut many s t :=
  fun p hp => h p fun hf => hp (hm p hf)

end Sys2Proof.Machine
end

