-- ==== Sys2Proof/Laws/PerInstr.lean ====
section
/-! SUPPORT. Lemmas per constructor of `Instr`. The family `TableRow`: the word of an instruction is one the row of R88
covers that stands for it. -/

namespace Sys2Proof.Laws

/-- The encoding of an instruction lies in its own row of the opcode table (R88). -/
def TableRow.Statement (i : Instr) : Prop := i.row.covers (encode i) = true

theorem TableRow.cls : TableRow.Statement .cls :=
  beq_iff_eq.mpr rfl

theorem TableRow.ret : TableRow.Statement .ret :=
  beq_iff_eq.mpr rfl

theorem TableRow.jp (nnn : Addr12) : TableRow.Statement (.jp nnn) :=
  beq_iff_eq.mpr ((formatA_and _ _).trans rfl)

theorem TableRow.call (nnn : Addr12) : TableRow.Statement (.call nnn) :=
  beq_iff_eq.mpr ((formatA_and _ _).trans rfl)

theorem TableRow.seImm (x : Nibble) (nn : Byte) : TableRow.Statement (.seImm x nn) :=
  beq_iff_eq.mpr ((formatXK_and_class _ _ _).trans rfl)

theorem TableRow.sneImm (x : Nibble) (nn : Byte) : TableRow.Statement (.sneImm x nn) :=
  beq_iff_eq.mpr ((formatXK_and_class _ _ _).trans rfl)

theorem TableRow.seReg (x : Nibble) (y : Nibble) : TableRow.Statement (.seReg x y) :=
  beq_iff_eq.mpr ((formatXYN_and_selector _ _ _ _).trans rfl)

theorem TableRow.ldImm (x : Nibble) (nn : Byte) : TableRow.Statement (.ldImm x nn) :=
  beq_iff_eq.mpr ((formatXK_and_class _ _ _).trans rfl)

theorem TableRow.addImm (x : Nibble) (nn : Byte) : TableRow.Statement (.addImm x nn) :=
  beq_iff_eq.mpr ((formatXK_and_class _ _ _).trans rfl)

theorem TableRow.ldReg (x : Nibble) (y : Nibble) : TableRow.Statement (.ldReg x y) :=
  beq_iff_eq.mpr ((formatXYN_and_selector _ _ _ _).trans rfl)

theorem TableRow.orReg (x : Nibble) (y : Nibble) : TableRow.Statement (.orReg x y) :=
  beq_iff_eq.mpr ((formatXYN_and_selector _ _ _ _).trans rfl)

theorem TableRow.andReg (x : Nibble) (y : Nibble) : TableRow.Statement (.andReg x y) :=
  beq_iff_eq.mpr ((formatXYN_and_selector _ _ _ _).trans rfl)

theorem TableRow.xorReg (x : Nibble) (y : Nibble) : TableRow.Statement (.xorReg x y) :=
  beq_iff_eq.mpr ((formatXYN_and_selector _ _ _ _).trans rfl)

theorem TableRow.addReg (x : Nibble) (y : Nibble) : TableRow.Statement (.addReg x y) :=
  beq_iff_eq.mpr ((formatXYN_and_selector _ _ _ _).trans rfl)

theorem TableRow.subReg (x : Nibble) (y : Nibble) : TableRow.Statement (.subReg x y) :=
  beq_iff_eq.mpr ((formatXYN_and_selector _ _ _ _).trans rfl)

theorem TableRow.shr (x : Nibble) (y : Nibble) : TableRow.Statement (.shr x y) :=
  beq_iff_eq.mpr ((formatXYN_and_selector _ _ _ _).trans rfl)

theorem TableRow.subn (x : Nibble) (y : Nibble) : TableRow.Statement (.subn x y) :=
  beq_iff_eq.mpr ((formatXYN_and_selector _ _ _ _).trans rfl)

theorem TableRow.shl (x : Nibble) (y : Nibble) : TableRow.Statement (.shl x y) :=
  beq_iff_eq.mpr ((formatXYN_and_selector _ _ _ _).trans rfl)

theorem TableRow.sneReg (x : Nibble) (y : Nibble) : TableRow.Statement (.sneReg x y) :=
  beq_iff_eq.mpr ((formatXYN_and_selector _ _ _ _).trans rfl)

theorem TableRow.ldI (nnn : Addr12) : TableRow.Statement (.ldI nnn) :=
  beq_iff_eq.mpr ((formatA_and _ _).trans rfl)

theorem TableRow.jpV0 (nnn : Addr12) : TableRow.Statement (.jpV0 nnn) :=
  beq_iff_eq.mpr ((formatA_and _ _).trans rfl)

theorem TableRow.rnd (x : Nibble) (nn : Byte) : TableRow.Statement (.rnd x nn) :=
  beq_iff_eq.mpr ((formatXK_and_class _ _ _).trans rfl)

theorem TableRow.drw (x : Nibble) (y : Nibble) (n : Nibble) : TableRow.Statement (.drw x y n) :=
  beq_iff_eq.mpr ((formatXYN_and_class _ _ _ _).trans rfl)

theorem TableRow.skp (x : Nibble) : TableRow.Statement (.skp x) :=
  beq_iff_eq.mpr ((formatXK_and_selector _ _ _).trans rfl)

theorem TableRow.sknp (x : Nibble) : TableRow.Statement (.sknp x) :=
  beq_iff_eq.mpr ((formatXK_and_selector _ _ _).trans rfl)

theorem TableRow.ldVxDt (x : Nibble) : TableRow.Statement (.ldVxDt x) :=
  beq_iff_eq.mpr ((formatXK_and_selector _ _ _).trans rfl)

theorem TableRow.ldVxK (x : Nibble) : TableRow.Statement (.ldVxK x) :=
  beq_iff_eq.mpr ((formatXK_and_selector _ _ _).trans rfl)

theorem TableRow.ldDtVx (x : Nibble) : TableRow.Statement (.ldDtVx x) :=
  beq_iff_eq.mpr ((formatXK_and_selector _ _ _).trans rfl)

theorem TableRow.ldStVx (x : Nibble) : TableRow.Statement (.ldStVx x) :=
  beq_iff_eq.mpr ((formatXK_and_selector _ _ _).trans rfl)

theorem TableRow.addI (x : Nibble) : TableRow.Statement (.addI x) :=
  beq_iff_eq.mpr ((formatXK_and_selector _ _ _).trans rfl)

theorem TableRow.ldF (x : Nibble) : TableRow.Statement (.ldF x) :=
  beq_iff_eq.mpr ((formatXK_and_selector _ _ _).trans rfl)

theorem TableRow.ldB (x : Nibble) : TableRow.Statement (.ldB x) :=
  beq_iff_eq.mpr ((formatXK_and_selector _ _ _).trans rfl)

theorem TableRow.storeRegs (x : Nibble) : TableRow.Statement (.storeRegs x) :=
  beq_iff_eq.mpr ((formatXK_and_selector _ _ _).trans rfl)

theorem TableRow.loadRegs (x : Nibble) : TableRow.Statement (.loadRegs x) :=
  beq_iff_eq.mpr ((formatXK_and_selector _ _ _).trans rfl)

end Sys2Proof.Laws
end

