-- ==== Sys2Proof/Tests/Slice0.lean ====
section
/-! SUPPORT. Tests of the model: ill-formed words refused, every constructor decoded from a word written out from the spec,
one-step vectors of spec/95_test_vectors.md (their ids in the docstrings), and states that meet the hypotheses of the
statements. -/

namespace Sys2Proof.Tests

open Sys2Proof.Machine

/-! ## Helpers -/

/-- The state after Reset with some registers written. -/
def withRegs (l : List (Nibble × Byte)) : State := l.foldl (fun s p => s.setReg p.1 p.2) State.reset

/-- The state after a next outcome, the state itself otherwise. -/
def nextOr (s : State) : Host.Outcome State Fault Refusal → State
  | .next t => t
  | .fault _ => s
  | .refused _ => s

/-- One Step of the word placed at PC. -/
def stepOf (op : Word) (s : State) : State := nextOr s (step (s.placeWord op))

/-- Transactions from a state. -/
def runOf (ts : List Transaction) (s : State) : State := nextOr s (transactAll ts s)

/-- The machine after a fatal error: HALT, the error code of R270, opcode, addr and info. -/
def faultReport (s : State) : Bool × Nat × Option ErrRecord := (s.halt, s.errCode, s.err)

/-! ## Ill-formed words are refused (R89 to R95) -/

/-- R89: F2, F3, F4. -/
theorem test_class0_refused :
    wellFormedWord 0x0000 = false ∧ decodeWord 0x0000 = .error (.invalidOpcode 0x0000) ∧
    wellFormedWord 0x00E1 = false ∧ decodeWord 0x00E1 = .error (.invalidOpcode 0x00E1) ∧
    wellFormedWord 0x0123 = false ∧ decodeWord 0x0123 = .error (.invalidOpcode 0x0123) := by decide

/-- R90: S9, F5. -/
theorem test_class5_and_9_refused :
    wellFormedWord 0x5001 = false ∧ decodeWord 0x5001 = .error (.invalidOpcode 0x5001) ∧
    wellFormedWord 0x9001 = false ∧ decodeWord 0x9001 = .error (.invalidOpcode 0x9001) := by decide

/-- R91: F6. -/
theorem test_class8_refused :
    wellFormedWord 0x8008 = false ∧ decodeWord 0x8008 = .error (.invalidOpcode 0x8008) ∧
    wellFormedWord 0x800F = false ∧ decodeWord 0x800F = .error (.invalidOpcode 0x800F) := by decide

/-- R92: F7. -/
theorem test_classE_refused :
    wellFormedWord 0xE09F = false ∧ decodeWord 0xE09F = .error (.invalidOpcode 0xE09F) ∧
    wellFormedWord 0xE0A0 = false ∧ decodeWord 0xE0A0 = .error (.invalidOpcode 0xE0A0) := by decide

/-- R93: F8. -/
theorem test_classF_refused :
    wellFormedWord 0xF000 = false ∧ decodeWord 0xF000 = .error (.invalidOpcode 0xF000) ∧
    wellFormedWord 0xF01F = false ∧ decodeWord 0xF01F = .error (.invalidOpcode 0xF01F) ∧
    wellFormedWord 0xF0FF = false ∧ decodeWord 0xF0FF = .error (.invalidOpcode 0xF0FF) := by decide

/-- R87: one byte is no instruction. -/
theorem test_truncated_refused : decodeBytes [0x12] = .error .truncated := by decide

/-! ## Every constructor from its word, bit by bit (R87, R88) -/

theorem test_decode_flow :
    decodeWord 0b0000000011100000 = .ok .cls ∧
    decodeWord 0b0000000011101110 = .ok .ret ∧
    decodeWord 0b0001010100000001 = .ok (.jp 0x501) ∧
    decodeWord 0b0010001000000110 = .ok (.call 0x206) ∧
    decodeWord 0b0011001100010000 = .ok (.seImm 0x3 0x10) ∧
    decodeWord 0b0100001100010001 = .ok (.sneImm 0x3 0x11) ∧
    decodeWord 0b0101000100100000 = .ok (.seReg 0x1 0x2) ∧
    decodeWord 0b1001000100100000 = .ok (.sneReg 0x1 0x2) ∧
    decodeWord 0b1011001100000000 = .ok (.jpV0 0x300) := by decide

theorem test_decode_alu :
    decodeWord 0b0110101000101011 = .ok (.ldImm 0xA 0x2B) ∧
    decodeWord 0b0111001000100000 = .ok (.addImm 0x2 0x20) ∧
    decodeWord 0b1000001010110000 = .ok (.ldReg 0x2 0xB) ∧
    decodeWord 0b1000001010110001 = .ok (.orReg 0x2 0xB) ∧
    decodeWord 0b1000001010110010 = .ok (.andReg 0x2 0xB) ∧
    decodeWord 0b1000001010110011 = .ok (.xorReg 0x2 0xB) ∧
    decodeWord 0b1000001010110100 = .ok (.addReg 0x2 0xB) ∧
    decodeWord 0b1000001010110101 = .ok (.subReg 0x2 0xB) ∧
    decodeWord 0b1000001010110110 = .ok (.shr 0x2 0xB) ∧
    decodeWord 0b1000001010110111 = .ok (.subn 0x2 0xB) ∧
    decodeWord 0b1000001010111110 = .ok (.shl 0x2 0xB) ∧
    decodeWord 0b1100001100001111 = .ok (.rnd 0x3 0x0F) := by decide

theorem test_decode_index_memory_display :
    decodeWord 0b1010000100100011 = .ok (.ldI 0x123) ∧
    decodeWord 0b1101000100100101 = .ok (.drw 0x1 0x2 0x5) ∧
    decodeWord 0b1111000000011110 = .ok (.addI 0x0) ∧
    decodeWord 0b1111101100101001 = .ok (.ldF 0xB) ∧
    decodeWord 0b1111101100110011 = .ok (.ldB 0xB) ∧
    decodeWord 0b1111001001010101 = .ok (.storeRegs 0x2) ∧
    decodeWord 0b1111001101100101 = .ok (.loadRegs 0x3) := by decide

theorem test_decode_keypad_timers :
    decodeWord 0b1110000110011110 = .ok (.skp 0x1) ∧
    decodeWord 0b1110000110100001 = .ok (.sknp 0x1) ∧
    decodeWord 0b1111010100001010 = .ok (.ldVxK 0x5) ∧
    decodeWord 0b1111000100000111 = .ok (.ldVxDt 0x1) ∧
    decodeWord 0b1111000000010101 = .ok (.ldDtVx 0x0) ∧
    decodeWord 0b1111000000011000 = .ok (.ldStVx 0x0) := by decide

/-- The byte at the lower address is the high one (R56). -/
theorem test_decode_bytes_in_memory_order :
    decodeBytes [0x12, 0x34, 0x60] = .ok (.jp 0x234, [0x60]) ∧ encodeBytes (.jp 0x234) = [0x12, 0x34] := by decide

/-- The table's numbering: 16 bits in one word, bit 15 the first. -/
theorem test_decodeTableWord :
    decodeTableWord 16 0x8AB6 = some (.shr 0xA 0xB) ∧ decodeTableWord 16 0x5001 = none := by decide

/-! ## Fetch and the Step around an instruction -/

/-- F1. -/
theorem test_fetch_high_byte_first : (stepOf 0x1234 State.reset).pc = 0x234 := by decide

/-- F2: from Reset with nothing loaded the word at 0x200 is 0000. -/
theorem test_step_from_reset :
    faultReport (nextOr State.reset (step State.reset)) =
      (true, 1, some ⟨.invalidOpcode, some 0x0000, 0x200, none⟩) := by decide

/-- F10, F11. -/
theorem test_fetch_beyond_memory :
    (nextOr State.reset (step (State.reset.setPc 0xFFF))).err =
      some ⟨.addressOutOfRange, none, 0xFFF, some 0x1000⟩ ∧
    (nextOr State.reset (step (State.reset.setPc 0x10FE))).err =
      some ⟨.addressOutOfRange, none, 0x10FE, some 0x10FE⟩ := by decide

/-- F12: an odd PC. -/
theorem test_fetch_odd_pc :
    (stepOf 0x602A (State.reset.setPc 0x201)).reg 0x0 = 0x2A ∧
    (stepOf 0x602A (State.reset.setPc 0x201)).pc = 0x203 := by decide

/-- S9. -/
theorem test_invalid_opcode_halts :
    faultReport (stepOf 0x5001 State.reset) = (true, 1, some ⟨.invalidOpcode, some 0x5001, 0x200, none⟩) ∧
    (stepOf 0x5001 State.reset).pc = 0x200 := by decide

/-! ## Display -/

/-- Sprite bytes at 0x300, and I there. -/
def withSprite (bs : List Byte) (s : State) : State := (s.setI 0x300).setBytes 0x300 bs

/-- G1. -/
theorem test_cls :
    let s := (State.reset.setFb (.replicate 32 (-1))).setReg 0xF 5
    (stepOf 0x00E0 s).fb = .replicate 32 0 ∧ (stepOf 0x00E0 s).redraw = true ∧ (stepOf 0x00E0 s).reg 0xF = 5 := by
  decide

/-- G2: horizontal wrap. -/
theorem test_drw_wraps :
    let t := stepOf 0xD011 (withSprite [0xFF] (withRegs [(0x0, 0x3C)]))
    t.fb[0] = 0xF00000000000000F ∧ t.fb[1] = 0 ∧ t.reg 0xF = 0 ∧ t.redraw = true := by decide

/-- G9: the coordinates are read from VF before the flag overwrites it; a pixel is cleared. -/
theorem test_drw_collides :
    let t := stepOf 0xDFF1 (withSprite [0xC0] (State.reset.setFb (togglePixel State.reset.fb 1 0)))
    t.pixel 0 0 = true ∧ t.pixel 1 0 = false ∧ t.reg 0xF = 1 := by decide

/-- G4: vertical wrap. G7: a row beyond memory. -/
theorem test_drw_vertical_wrap_and_range :
    (stepOf 0xD012 (withSprite [0x80, 0x80] (withRegs [(0x1, 0x1F)]))).pixel 0 31 = true ∧
    (stepOf 0xD012 (withSprite [0x80, 0x80] (withRegs [(0x1, 0x1F)]))).pixel 0 0 = true ∧
    faultReport (stepOf 0xD012 (State.reset.setI 0xFFF)) =
      (true, 4, some ⟨.addressOutOfRange, some 0xD012, 0x200, some 0x1000⟩) := by decide

/-! ## Control flow -/

/-- J7: call, then return. -/
theorem test_call_then_ret :
    let t := stepOf 0x2206 State.reset
    let u := stepOf 0x00EE t
    t.sp = 0 ∧ t.stack[0] = 0x202 ∧ t.pc = 0x206 ∧ u.sp = -1 ∧ u.pc = 0x202 ∧ u.stack[0] = 0x202 := by decide

/-- J8: the 17th pending call. -/
theorem test_call_overflow :
    faultReport (stepOf 0x2200 (State.reset.setStack State.reset.stack 16)) =
      (true, 2, some ⟨.stackOverflow, some 0x2200, 0x200, none⟩) := by decide

/-- J9. -/
theorem test_ret_underflow :
    faultReport (stepOf 0x00EE State.reset) = (true, 3, some ⟨.stackUnderflow, some 0x00EE, 0x200, none⟩) := by decide

/-- J13. -/
theorem test_jp : (stepOf 0x1501 (withRegs [(0x5, 3)])).pc = 0x501 := by decide

/-- J1, J2. -/
theorem test_immediate_skips :
    (stepOf 0x3310 (withRegs [(0x3, 0x10)])).pc = 0x204 ∧ (stepOf 0x3311 (withRegs [(0x3, 0x10)])).pc = 0x202 ∧
    (stepOf 0x4311 (withRegs [(0x3, 0x10)])).pc = 0x204 ∧ (stepOf 0x4310 (withRegs [(0x3, 0x10)])).pc = 0x202 := by
  decide

/-- J3, J4 and unequal registers. -/
theorem test_register_skips :
    (stepOf 0x5120 (withRegs [(0x1, 7), (0x2, 7)])).pc = 0x204 ∧
    (stepOf 0x9120 (withRegs [(0x1, 7), (0x2, 7)])).pc = 0x202 ∧
    (stepOf 0x5120 (withRegs [(0x1, 7), (0x2, 8)])).pc = 0x202 ∧
    (stepOf 0x9120 (withRegs [(0x1, 7), (0x2, 8)])).pc = 0x204 ∧
    (stepOf 0x5110 (withRegs [(0x1, 7)])).pc = 0x204 := by decide

/-- J10, J11: no mask to 12 bits. -/
theorem test_jpV0 :
    (stepOf 0xB300 (withRegs [(0x0, 0x04)])).pc = 0x304 ∧ (stepOf 0xBFFF (withRegs [(0x0, 0xFF)])).pc = 0x10FE := by
  decide

/-! ## ALU -/

/-- A1, A2. -/
theorem test_ldImm_addImm :
    (stepOf 0x6A2B State.reset).reg 0xA = 0x2B ∧
    (stepOf 0x7001 (withRegs [(0x0, 0xFF), (0xF, 0x55)])).reg 0x0 = 0x00 ∧
    (stepOf 0x7001 (withRegs [(0x0, 0xFF), (0xF, 0x55)])).reg 0xF = 0x55 := by decide

/-- A23, A19. -/
theorem test_ldReg_orReg :
    (stepOf 0x8010 (withRegs [(0x1, 0x33)])).reg 0x0 = 0x33 ∧
    (stepOf 0x8011 (withRegs [(0x0, 0x0F), (0x1, 0xF0), (0xF, 1)])).reg 0x0 = 0xFF ∧
    (stepOf 0x8011 (withRegs [(0x0, 0x0F), (0x1, 0xF0), (0xF, 1)])).reg 0xF = 1 := by decide

/-- A20, A21. -/
theorem test_andReg_xorReg :
    (stepOf 0x8012 (withRegs [(0x0, 0x3C), (0x1, 0x0F)])).reg 0x0 = 0x0C ∧
    (stepOf 0x8F03 (withRegs [(0xF, 0x0F), (0x0, 0xFF)])).reg 0xF = 0xF0 := by decide

/-- S2, A4, A5. -/
theorem test_addReg :
    (stepOf 0x8014 (withRegs [(0x0, 0xFF), (0x1, 0x01)])).reg 0x0 = 0x00 ∧
    (stepOf 0x8014 (withRegs [(0x0, 0xFF), (0x1, 0x01)])).reg 0xF = 1 ∧
    (stepOf 0x8014 (withRegs [(0x0, 0x7F), (0x1, 0x01)])).reg 0xF = 0 ∧
    (stepOf 0x8F14 (withRegs [(0xF, 0xFF), (0x1, 0x01)])).reg 0xF = 1 := by decide

/-- S3, A8, A9. -/
theorem test_subReg :
    (stepOf 0x8015 (withRegs [(0x0, 0x01), (0x1, 0x02)])).reg 0x0 = 0xFF ∧
    (stepOf 0x8015 (withRegs [(0x0, 0x01), (0x1, 0x02)])).reg 0xF = 0 ∧
    (stepOf 0x8015 (withRegs [(0x0, 0x05), (0x1, 0x05)])).reg 0xF = 1 ∧
    (stepOf 0x8F15 (withRegs [(0xF, 0x10), (0x1, 0x20)])).reg 0xF = 0 := by decide

/-- A10, A12. -/
theorem test_subn :
    (stepOf 0x8017 (withRegs [(0x0, 0x02), (0x1, 0x01)])).reg 0x0 = 0xFF ∧
    (stepOf 0x8017 (withRegs [(0x0, 0x02), (0x1, 0x01)])).reg 0xF = 0 ∧
    (stepOf 0x8F17 (withRegs [(0xF, 0x03), (0x1, 0x05)])).reg 0xF = 1 := by decide

/-- A13, A15 and F9 (Y is ignored). -/
theorem test_shr :
    (stepOf 0x8506 (withRegs [(0x5, 0x03)])).reg 0x5 = 0x01 ∧ (stepOf 0x8506 (withRegs [(0x5, 0x03)])).reg 0xF = 1 ∧
    (stepOf 0x8FF6 (withRegs [(0xF, 0x03)])).reg 0xF = 1 ∧
    (stepOf 0x8016 (withRegs [(0x1, 0x03)])).reg 0x0 = 0 := by decide

/-- A16, A18. -/
theorem test_shl :
    (stepOf 0x850E (withRegs [(0x5, 0x81)])).reg 0x5 = 0x02 ∧ (stepOf 0x850E (withRegs [(0x5, 0x81)])).reg 0xF = 1 ∧
    (stepOf 0x8F1E (withRegs [(0xF, 0x80), (0x1, 0x80)])).reg 0xF = 1 := by decide

/-- A25: whatever byte is drawn. -/
theorem test_rnd : exec (.rnd 0x3 0x00) State.reset = .next (State.reset.drawRandom.2.finishResult 0x3 0x00) := by
  simp [execRnd]

/-! ## Index register and memory -/

/-- M1, M7, M8. -/
theorem test_ldI_ldF :
    (stepOf 0xA123 State.reset).i = 0x123 ∧ (stepOf 0xF029 (withRegs [(0x0, 0x0A)])).i = 0x032 ∧
    (stepOf 0xF029 (withRegs [(0x0, 0xFF)])).i = 0x4FB := by decide

/-- M2, M3, M4. -/
theorem test_addI :
    (stepOf 0xF01E ((withRegs [(0x0, 1), (0xF, 7)]).setI 0xFFE)).reg 0xF = 0 ∧
    (stepOf 0xF01E ((withRegs [(0x0, 1)]).setI 0xFFF)).reg 0xF = 1 ∧
    (stepOf 0xF01E ((withRegs [(0x0, 1)]).setI 0xFFFF)).i = 0x0000 := by decide

/-- S7. -/
theorem test_ldB :
    let t := stepOf 0xF033 ((withRegs [(0x0, 0x9C)]).setI 0x300)
    t.bytes 0x300 3 = [1, 5, 6] ∧ t.i = 0x300 := by decide

/-- M12. -/
theorem test_ldB_range :
    faultReport (stepOf 0xF033 ((withRegs [(0x0, 0x9C)]).setI 0xFFE)) =
      (true, 4, some ⟨.addressOutOfRange, some 0xF033, 0x200, some 0x1000⟩) := by decide

/-- M13, M18. -/
theorem test_storeRegs :
    (stepOf 0xF255 ((withRegs [(0x0, 1), (0x1, 2), (0x2, 3)]).setI 0x300)).bytes 0x300 4 = [1, 2, 3, 0] ∧
    (stepOf 0xF155 (withRegs [(0x0, 1), (0x1, 2)])).bytes 0x000 3 = [1, 2, 0x90] := by decide

/-- M16 (V0 to V3 only), M17. -/
theorem test_loadRegs :
    let t := stepOf 0xF365 (withSprite [0, 1, 2, 3, 4] (withRegs [(0x4, 9)]))
    t.reg 0x2 = 2 ∧ t.reg 0x3 = 3 ∧ t.reg 0x4 = 9 ∧ t.i = 0x300 ∧
    (stepOf 0xF065 (State.reset.setI 0x1234)).err = some ⟨.addressOutOfRange, some 0xF065, 0x200, some 0x1234⟩ := by
  decide

/-! ## Keypad and timers -/

/-- K1, K2, K3. -/
theorem test_skp :
    (stepOf 0xE19E ((withRegs [(0x1, 7)]).setKey 0x7 true)).pc = 0x204 ∧
    (stepOf 0xE19E (withRegs [(0x1, 7)])).pc = 0x202 ∧
    faultReport (stepOf 0xE19E (withRegs [(0x1, 0x10)])) =
      (true, 5, some ⟨.keyIndexOutOfRange, some 0xE19E, 0x200, some 0x10⟩) := by decide

/-- K1, K2. -/
theorem test_sknp :
    (stepOf 0xE1A1 ((withRegs [(0x1, 7)]).setKey 0x7 true)).pc = 0x202 ∧
    (stepOf 0xE1A1 (withRegs [(0x1, 7)])).pc = 0x204 := by decide

/-- S10, K4: a held key does not complete the wait, a KeyDown does. -/
theorem test_ldVxK :
    let t := stepOf 0xF50A (State.reset.setKey 0x7 true)
    let u := runOf [.step, .keyDown 0x7] t
    t.wait = some 0x5 ∧ t.pc = 0x200 ∧ u.reg 0x5 = 7 ∧ u.pc = 0x202 ∧ u.wait = none := by decide

/-- T4, T5, T3. -/
theorem test_timer_copies :
    (stepOf 0xF507 (State.reset.setDt 0x3C)).reg 0x5 = 0x3C ∧
    (stepOf 0xF015 (State.reset.setDt 5)).dt = 0 ∧
    (stepOf 0xF018 (withRegs [(0x0, 0x10)])).st = 0x10 := by decide

/-! ## Host transactions -/

/-- T2, K6. -/
theorem test_tick :
    (runOf [.tick] State.reset).dt = 0 ∧ (runOf [.tick, .tick] ((State.reset.setDt 3).setWait (some 5))).dt = 1 := by
  decide

/-- K7, K5. -/
theorem test_key_events_while_halted_or_waiting :
    let t := runOf [.haltRequest, .keyDown 0x2] (State.reset.setWait (some 0x5))
    t.halt = true ∧ t.wait = some 0x5 ∧ t.pc = 0x200 ∧ t.reg 0x5 = 0 ∧ t.keyPressed 0x2 = true ∧
    (runOf [.keyUp 0x3] (State.reset.setWait (some 0x5))).wait = some 0x5 := by decide

/-- S8: the lengths 0xE00 and 0xE01. -/
theorem test_load_program_lengths :
    (State.reset.loadProgram (List.replicate 0xE01 0)).1 = .loadError ∧ ¬ 0xE00 < (List.replicate 0xE00 (0 : Byte)).length := by
  constructor
  · unfold State.loadProgram
    rw [List.length_replicate]
    rfl
  · rw [List.length_replicate]
    omega

/-- Z5. -/
theorem test_load_program :
    let t := runOf [.loadProgram [0x12, 0x00]] ((withRegs [(0x0, 5)]).setPc 0x20A)
    t.bytes 0x200 3 = [0x12, 0x00, 0x00] ∧ t.pc = 0x20A ∧ t.reg 0x0 = 5 := by decide

/-- Z1, Z3. -/
theorem test_reset :
    (runOf [.haltRequest, .reset] (withRegs [(0x0, 5)])) = State.reset ∧
    State.reset.bytes 0x000 5 = [0xF0, 0x90, 0x90, 0x90, 0xF0] ∧
    State.reset.bytes 0x04B 6 = [0xF0, 0x80, 0xF0, 0x80, 0x80, 0x00] := by decide

/-! ## Witnesses: states and operands that meet the hypotheses of the statements, at the ends of their ranges -/

theorem test_witness_encode_of_decoded : decodeWord 0x8AB6 = .ok (.shr 0xA 0xB) ∧ encode (.shr 0xA 0xB) = 0x8AB6 := by
  decide

theorem test_witness_disjoint_rows : opcodeTable[(2 : Fin 34)].covers 0x1234 = true := by decide

theorem test_witness_fetch :
    (State.reset.setPc 0xFFE).pc.toNat ≤ 0xFFE ∧ (State.reset.setPc 0xFFE).fetch = .ok 0x0000 ∧
    ((State.reset.setPc 0x201).setBytes 0x201 [0x60, 0x2A]).fetch = .ok 0x602A := by decide

theorem test_witness_step_executes :
    let s := (State.reset.setPc 0xFFE).setBytes 0xFFE [0x23, 0x00]
    s.halt = false ∧ s.wait = none ∧ s.pc.toNat ≤ 0xFFE ∧
    decodeWord (joinBytes (s.byte s.pc.toNat) (s.byte (s.pc.toNat + 1))) = .ok (.call 0x300) ∧
    (nextOr s (step s)).pc = 0x300 := by decide

theorem test_witness_halted_or_waiting :
    (State.reset.setHalt true).halt = true ∧ (State.reset.setWait (some 0xF)).wait ≠ none := by decide

theorem test_witness_fetch_beyond :
    let s := State.reset.setPc 0xFFF
    let t := State.reset.setPc 0x1000
    s.halt = false ∧ s.wait = none ∧ s.err = none ∧ s.pc.toNat = 0xFFF ∧
    t.halt = false ∧ t.wait = none ∧ t.err = none ∧ 0xFFF < t.pc.toNat := by decide

theorem test_witness_invalid_opcode :
    let s := State.reset.placeWord 0x5001
    s.halt = false ∧ s.wait = none ∧ s.err = none ∧ s.fetch = .ok 0x5001 ∧ wellFormedWord 0x5001 = false := by decide

/-- One error of each kind of check: the fetch, the decoder, the instruction's own. -/
theorem test_witness_fatal_errors :
    (∃ t, step (State.reset.setPc 0xFFF) = .next t ∧ t.err ≠ (State.reset.setPc 0xFFF).err) ∧
    (∃ t, step State.reset = .next t ∧ t.err ≠ State.reset.err) ∧
    (∃ t, step (State.reset.placeWord 0x00EE) = .next t ∧ t.err ≠ (State.reset.placeWord 0x00EE).err) :=
  ⟨⟨_, rfl, by decide⟩, ⟨_, rfl, by decide⟩, ⟨_, rfl, by decide⟩⟩

/-- Each check at both sides of its bound. -/
theorem test_witness_own_check :
    ownCheck .ret State.reset = some (.stackUnderflow, none) ∧
    ownCheck (.call 0x300) (State.reset.setStack State.reset.stack 16) = some (.stackOverflow, none) ∧
    ownCheck (.call 0x300) (State.reset.setStack State.reset.stack 15) = none ∧
    ownCheck (.drw 0 0 2) (State.reset.setI 0xFFF) = some (.addressOutOfRange, some 0x1000) ∧
    ownCheck (.drw 0 0 1) (State.reset.setI 0xFFF) = none ∧
    ownCheck (.drw 0 0 0) (State.reset.setI 0x2000) = none ∧
    ownCheck (.ldB 0) (State.reset.setI 0xFFE) = some (.addressOutOfRange, some 0x1000) ∧
    ownCheck (.loadRegs 0) (State.reset.setI 0x1234) = some (.addressOutOfRange, some 0x1234) ∧
    ownCheck (.skp 0) (withRegs [(0, 0x10)]) = some (.keyIndexOutOfRange, some 0x10) ∧
    ownCheck (.skp 0) (withRegs [(0, 0xF)]) = none ∧ ownCheck .cls State.reset = none ∧
    State.reset.err = none := by decide

/-- N = 0 with I outside memory, and the last row at 0xFFF; a covered and an uncovered pixel; a draw that collides and one
that does not (G5, G6). -/
theorem test_witness_draw :
    ((0 : Nibble).toNat = 0) ∧ (State.reset.setI 0xFFF).i.toNat + (1 : Nibble).toNat - 1 ≤ 0xFFF ∧
    (let t := stepOf 0xD010 ((withRegs [(0xF, 7)]).setI 0x2000)
     t.fb = State.reset.fb ∧ t.reg 0xF = 0 ∧ t.redraw = true ∧ t.pc = 0x202) ∧
    (let t := stepOf 0xD011 ((State.reset.setI 0xFFF).setByte 0xFFF 0x80)
     t.pixel 0 0 = true ∧ t.pixel 1 0 = false ∧ t.reg 0xF = 0) := by decide

theorem test_witness_covered_pixel :
    let s := withSprite [0x80] State.reset
    SpriteCovers s 0x0 0x1 0x1 0 0 ∧ ¬ SpriteCovers s 0x0 0x1 0x0 0 0 := by
  refine ⟨⟨0, by decide, 0, by decide, by decide, by decide, by decide⟩, ?_⟩
  rintro ⟨r, hr, _⟩
  exact absurd hr (by simp)

/-- S5, G10: a sprite with a set bit, and one with none. -/
theorem test_witness_draw_twice :
    (0x0 : Nibble) ≠ 0xF ∧ (0x1 : Nibble) ≠ 0xF ∧ (withSprite [0xFF] State.reset).i.toNat + (1 : Nibble).toNat - 1 ≤ 0xFFF ∧
    (let t := stepOf 0xD011 (withSprite [0xFF] State.reset)
     let u := stepOf 0xD011 t
     t.reg 0xF = 0 ∧ u.fb = State.reset.fb ∧ u.reg 0xF = 1) ∧
    (let t := stepOf 0xD011 (withSprite [0x00] State.reset)
     let u := stepOf 0xD011 t
     t.reg 0xF = 0 ∧ u.reg 0xF = 0) := by decide

/-- SP at both ends: -1 and 15, and 0. -/
theorem test_witness_return :
    State.reset.sp = -1 ∧ State.reset.err = none ∧
    (State.reset.setStack State.reset.stack 1).sp = ((0 : Fin 16).val : Int) ∧
    (State.reset.setStack State.reset.stack 16).sp = ((15 : Fin 16).val : Int) := by decide

theorem test_witness_call :
    State.reset.sp < 15 ∧ (State.reset.setStack State.reset.stack 15).sp < 15 ∧
    (State.reset.setStack State.reset.stack 16).sp = 15 ∧ (State.reset.setStack State.reset.stack 16).err = none := by
  decide

/-- A body with one inner call that fills the stack from SP = 13, and the deepest empty body, from SP = 14. -/
theorem test_witness_nested :
    Nested 1 [.call 0x400, .ldImm 0 1, .ret, .cls] ∧
    (State.reset.setStack State.reset.stack 14).sp + 2 + ((1 : Nat) : Int) ≤ 16 ∧
    Nested 0 [] ∧ (State.reset.setStack State.reset.stack 15).sp + 2 + ((0 : Nat) : Int) ≤ 16 :=
  ⟨.called 0x400 (.other (by simp) (by simp) (.done 0)) (.other (by simp) (by simp) (.done 1)), by decide, .done 0,
    by decide⟩

theorem test_witness_register_skips_nibble : ((1 : Nibble) ≠ 0 ∧ (0xF : Nibble) ≠ 0) ∧
    decodeWord 0x512F = .error (.invalidOpcode 0x512F) ∧ decodeWord 0x9121 = .error (.invalidOpcode 0x9121) := by decide

/-- I + 2 at 0xFFF and above (M11, M12). -/
theorem test_witness_bcd :
    (State.reset.setI 0xFFD).i.toNat + 2 ≤ 0xFFF ∧ 0xFFF < (State.reset.setI 0xFFE).i.toNat + 2 ∧
    (State.reset.setI 0xFFE).err = none ∧
    (stepOf 0xF033 ((withRegs [(0x0, 9)]).setI 0xFFD)).bytes 0xFFD 3 = [0, 0, 9] := by decide

/-- I + X at 0xFFF and above (M14, M15). -/
theorem test_witness_dump_and_load :
    (State.reset.setI 0xFF0).i.toNat + (0xF : Nibble).toNat ≤ 0xFFF ∧
    0xFFF < (State.reset.setI 0xFFF).i.toNat + (1 : Nibble).toNat ∧ (State.reset.setI 0xFFF).err = none ∧
    (stepOf 0xF055 ((withRegs [(0x0, 0xAB)]).setI 0xFFF)).byte 0xFFF = 0xAB := by decide

theorem test_witness_dump_then_load :
    (State.reset.setI 0xFFF).i.toNat + (0 : Nibble).toNat ≤ 0xFFF ∧
    ∃ t, exec (.storeRegs 0) (State.reset.setI 0xFFF) = .next t := ⟨by decide, _, rfl⟩

/-- M19: FX55 writes the word the next Step fetches, X at its least value. -/
theorem test_witness_stored_bytes_fetched :
    let s := ((withRegs [(0x0, 0x60), (0x1, 0x2A)]).setI 0x202)
    let t := nextOr s (exec (.storeRegs 1) s)
    (∃ u, exec (.storeRegs 1) s = .next u) ∧ 1 ≤ (1 : Nibble).toNat ∧ s.pc.toNat + 3 ≤ 0xFFF ∧ s.i = s.pc + 2 ∧ s.i.toNat + (1 : Nibble).toNat ≤ 0xFFF ∧
    t.fetch = .ok 0x602A :=
  ⟨⟨_, rfl⟩, by decide⟩

theorem test_witness_key_skips :
    ((withRegs [(0x1, 0x0F)]).reg 0x1).toNat = (0xF : Nibble).toNat ∧
    ((withRegs [(0x1, 0x00)]).reg 0x1).toNat = (0x0 : Nibble).toNat ∧
    0xF < ((withRegs [(0x1, 0x10)]).reg 0x1).toNat ∧ (withRegs [(0x1, 0x10)]).err = none := by decide

/-- Two Ticks of three and a Step, then the key. -/
theorem test_witness_key_wait :
    let ts : List Transaction := [.tick, .step, .keyUp 0x3, .tick, .clearRedraw]
    let s := (State.reset.setDt 3).setWait (some 0xF)
    s.halt = false ∧ s.wait = some 0xF ∧ ts.count .tick = 2 ∧ (runOf ts s).dt = 1 ∧ (runOf ts s).st = 0 ∧
    (runOf [.keyDown 0xC] (runOf ts s)).reg 0xF = 0x0C ∧ (runOf [.keyDown 0xC] (runOf ts s)).pc = 0x202 := by decide

theorem test_witness_key_wait_transactions :
    ∀ t ∈ ([.tick, .step, .keyUp 0x3, .tick, .clearRedraw] : List Transaction),
      t = .step ∨ t = .tick ∨ (∃ j, t = .keyUp j) ∨ t = .clearRedraw := by simp

theorem test_witness_tick :
    State.reset.halt = false ∧ (State.reset.setHalt true).halt = true ∧
    (runOf [.tick] (State.reset.setSt 1)).st = 0 ∧ (runOf [.tick] ((State.reset.setSt 1).setHalt true)).st = 1 := by
  decide

/-- Waiting, not waiting, halted while waiting. -/
theorem test_witness_key_down :
    (State.reset.setWait (some 0x5)).halt = false ∧ (State.reset.setWait (some 0x5)).wait = some 0x5 ∧
    State.reset.wait = none ∧ ((State.reset.setWait (some 0x5)).setHalt true).halt = true ∧ (1 : Nibble) ≠ 0 := by decide

theorem test_witness_load_program :
    (List.replicate 0xE00 (0xA5 : Byte)).length ≤ 0xE00 ∧ 0xE00 < (List.replicate 0xE01 (0xA5 : Byte)).length := by
  rw [List.length_replicate, List.length_replicate]
  omega

theorem test_witness_halt_terminal :
    (State.reset.setHalt true).halt = true ∧
    .reset ∉ ([.step, .tick, .keyDown 1, .keyUp 1, .haltRequest, .clearRedraw, .loadProgram [0x12]] : List Transaction) ∧
    ∀ bytes, .loadProgram bytes ∉ ([.step, .tick, .keyDown 1] : List Transaction) := by simp

theorem test_witness_frame : exec (.ldI 0x123) State.reset = .next ((State.reset.setI 0x123).setPc 0x202) := rfl

/-- A state of the invariant other than the one after Reset: some memory listed, PC at its bound. -/
theorem test_witness_invariant : ((State.reset.setByte 0x300 1).setPc 0x10FE).Inv where
  memory_canonical := State.setByte_wf State.reset_wf 0x300 1
  pc_bounded := by decide
  returns_bounded := by decide
  waiting_at_fetched := by decide
  error_halted := by
    intro e h
    cases h

theorem test_witness_invariant_step :
    ∃ t, step ((State.reset.setByte 0x300 1).setPc 0x10FE) = .next t ∧ t.halt = true := ⟨_, rfl, rfl⟩

/-- Each way a power state is left: FX0A, an error, a halt request; the key; Reset. -/
theorem test_witness_power_states :
    State.reset.power = .running ∧ (stepOf 0xFF0A State.reset).power = .awaitingKey 0xF ∧
    (runOf [.step] State.reset).power = .halted ∧ (runOf [.haltRequest] State.reset).power = .halted ∧
    (runOf [.keyDown 0x0] (State.reset.setWait (some 0x0))).power = .running ∧
    (runOf [.haltRequest] (State.reset.setWait (some 0x0))).power = .halted ∧
    (runOf [.reset] (State.reset.setWait (some 0x0))).power = .running ∧
    (runOf [.reset] (State.reset.setHalt true)).power = .running := by decide

/-- R25: from the highest fetchable PC, an advance by 2 and one by 4. -/
theorem test_pc_advances_at_the_end :
    (stepOf 0x6000 (State.reset.setPc 0xFFE)).pc = (State.reset.setPc 0xFFE).pc + 2 ∧
    (stepOf 0x3000 (State.reset.setPc 0xFFE)).pc = (State.reset.setPc 0xFFE).pc + 4 := by decide

theorem test_witness_canonical_memory :
    let s := (State.reset.setByte 0x300 1).setByte 0x200 2
    let t := (State.reset.setByte 0x200 2).setByte 0x300 1
    s.font = t.font ∧ Memory.wf s.unlisted s.mem ∧ Memory.wf t.unlisted t.mem ∧ s.mem = t.mem ∧
    s.mem = [(0x200, 2), (0x300, 1)] := by
  refine ⟨rfl, State.setByte_wf (State.setByte_wf State.reset_wf _ _) _ _,
    State.setByte_wf (State.setByte_wf State.reset_wf _ _) _ _, by decide, by decide⟩

/-- Writing what Reset left lists nothing. -/
theorem test_write_back_lists_nothing :
    (((State.reset.setByte 0x000 1).setByte 0x000 0xF0).setByte 0x300 0).mem = [] := by decide

theorem test_witness_placed_word :
    decodeWord 0x6A2B = .ok (.ldImm 0xA 0x2B) ∧ (State.reset.setPc 0xFFE).pc.toNat ≤ 0xFFE ∧
    (nextOr State.reset (step ((State.reset.setPc 0xFFF).withFetchWord 16 0x6A2B))).reg 0xA = 0x2B := by decide

end Sys2Proof.Tests
end

section
/-! PROOF of O55. The invariant reads seven fields of the state, so an update of the others keeps it; what is left is where
PC goes, what a push stores, what a memory write lists and what an error reports. -/

namespace Sys2Proof.Machine

variable {s t : State}

/-! ## Updates the invariant does not see -/

/-- The fields the invariant speaks of. -/
def State.constrained (s : State) :
    Memory × Vector Byte 80 × Word × Vector Word 16 × Option Nibble × Bool × Option ErrRecord :=
  (s.mem, s.font, s.pc, s.stack, s.wait, s.halt, s.err)

theorem State.Inv.congr (h : s.Inv) (e : t.constrained = s.constrained) : t.Inv := by
  simp only [State.constrained, Prod.mk.injEq] at e
  obtain ⟨hmem, hfont, hpc, hstack, hwait, hhalt, herr⟩ := e
  have hbase : t.unlisted = s.unlisted := by funext a; simp [State.unlisted, hfont]
  exact {
    memory_canonical := by rw [hbase, hmem]; exact h.memory_canonical
    pc_bounded := by rw [hpc]; exact h.pc_bounded
    returns_bounded := by rw [hstack]; exact h.returns_bounded
    waiting_at_fetched := by rw [hwait, hpc]; exact h.waiting_at_fetched
    error_halted := by rw [herr, hhalt, hpc]; exact h.error_halted }

/-! ## Updates that keep the invariant -/

theorem State.Inv.setBytes (h : s.Inv) (a : Nat) (bs : List Byte) : (s.setBytes a bs).Inv where
  memory_canonical := State.setBytes_wf h.memory_canonical a bs
  pc_bounded := by simpa using h.pc_bounded
  returns_bounded := by simpa using h.returns_bounded
  waiting_at_fetched := by simpa using h.waiting_at_fetched
  error_halted := by simpa using h.error_halted

theorem State.Inv.setHalt_true (h : s.Inv) : (s.setHalt true).Inv :=
  { h with error_halted := fun e he => ⟨rfl, (h.error_halted e he).2⟩ }

/-- R271, R278: a report names the PC, whether it is the new one or an earlier one that stays. -/
theorem State.Inv.raise (h : s.Inv) (kind : ErrKind) (opcode : Option Word) (info : Option Nat) :
    (s.raise kind opcode info).Inv where
  memory_canonical := h.memory_canonical
  pc_bounded := h.pc_bounded
  returns_bounded := h.returns_bounded
  waiting_at_fetched := h.waiting_at_fetched
  error_halted := by
    intro e he
    rw [State.raise_err, Option.some.injEq] at he
    subst he
    cases herr : s.err with
    | none => exact ⟨rfl, rfl⟩
    | some e => exact ⟨rfl, (h.error_halted e herr).2⟩

/-- R39: Reset leaves a state of the invariant, whatever FONT is. -/
theorem State.hostReset_inv (s : State) : s.hostReset.Inv where
  memory_canonical := Memory.wf_nil
  pc_bounded := by simp [State.reset]
  returns_bounded := by simp [State.reset]
  waiting_at_fetched := fun hw => absurd rfl hw
  error_halted := fun _ he => nomatch he

theorem State.Inv.err_eq_none (h : s.Inv) (hh : s.halt = false) : s.err = none := by
  cases herr : s.err with
  | none => rfl
  | some e => simpa [hh] using (h.error_halted e herr).1

/-! ## A machine at a fetched instruction -/

/-- The invariant in a machine that completes an instruction it has fetched: no error is reported, no key is awaited, and
the PC is one a word can be fetched from (R81). -/
structure State.Executing (s : State) : Prop where
  inv : s.Inv
  no_error : s.err = none
  not_waiting : s.wait = none
  fetched : s.pc.toNat ≤ 0xFFE

theorem State.Executing.setBytes (h : s.Executing) (a : Nat) (bs : List Byte) : (s.setBytes a bs).Executing where
  inv := h.inv.setBytes a bs
  no_error := by simpa using h.no_error
  not_waiting := by simpa using h.not_waiting
  fetched := by simpa using h.fetched

theorem State.Executing.setStack (h : s.Executing) {stack : Vector Word 16}
    (hs : ∀ j : Fin 16, stack[j].toNat ≤ 0x1000) (depth : Fin 17) : (s.setStack stack depth).Executing :=
  { h with inv := { h.inv with returns_bounded := hs } }

theorem State.Executing.setPc (h : s.Executing) {w : Word} (hw : w.toNat ≤ 0x10FE) : (s.setPc w).Inv :=
  { h.inv with
    pc_bounded := hw
    waiting_at_fetched := fun hwait => absurd h.not_waiting hwait
    error_halted := fun e he => by simp [h.no_error] at he }

theorem State.Executing.advance (h : s.Executing) {k : Word} (hk : k.toNat ≤ 4) : (s.advance k).Inv := by
  refine h.setPc ?_
  have := h.fetched
  rw [BitVec.toNat_add]
  omega

theorem State.Executing.advance_two (h : s.Executing) : (s.advance 2).Inv :=
  h.advance (by decide)

theorem State.Executing.skipIf (h : s.Executing) (c : Bool) : (s.skipIf c).Inv :=
  h.advance (by cases c <;> decide)

theorem State.Executing.setWait (h : s.Executing) (w : Option Nibble) : (s.setWait w).Inv :=
  { h.inv with waiting_at_fetched := fun _ => h.fetched }

theorem State.Executing.raiseFrom (h : s.Executing) (i : Instr) (kind : ErrKind) (info : Option Nat) :
    (s.raiseFrom i kind info).Inv :=
  h.inv.raise kind (some (encode i)) info

/-! ## The instructions that do more than advance -/

theorem execJp_keeps_inv (h : s.Executing) (nnn : Addr12) : ∃ t, execJp nnn s = .next t ∧ t.Inv := by
  have := nnn.isLt
  exact ⟨_, rfl, h.setPc (by rw [zextAddr_toNat]; omega)⟩

/-- R25: the highest PC an instruction can leave is 0xFFF + 0xFF. -/
theorem execJpV0_keeps_inv (h : s.Executing) (nnn : Addr12) : ∃ t, execJpV0 nnn s = .next t ∧ t.Inv := by
  have := nnn.isLt
  have := (s.reg 0x0).isLt
  refine ⟨_, rfl, h.setPc ?_⟩
  rw [BitVec.toNat_add, zextAddr_toNat, zextByte_toNat]
  omega

theorem execRet_keeps_inv (h : s.Executing) : ∃ t, execRet s = .next t ∧ t.Inv := by
  rcases execRet_cases s with ⟨-, he⟩ | ⟨hd, he⟩
  · exact ⟨_, he, h.raiseFrom _ _ _⟩
  · have hr : (s.stack[s.depth.val - 1]'(by omega)).toNat ≤ 0x1000 :=
      h.inv.returns_bounded ⟨s.depth.val - 1, by omega⟩
    exact ⟨_, he, (h.setStack h.inv.returns_bounded _).setPc (by omega)⟩

theorem execCall_keeps_inv (h : s.Executing) (nnn : Addr12) : ∃ t, execCall nnn s = .next t ∧ t.Inv := by
  rcases execCall_cases nnn s with ⟨-, he⟩ | ⟨hd, he⟩
  · exact ⟨_, he, h.raiseFrom _ _ _⟩
  · have hret : (s.pc + 2).toNat ≤ 0x1000 := by
      have := h.fetched
      bv_omega
    have hstack (j : Fin 16) : (s.stack.set s.depth.val (s.pc + 2) hd)[j].toNat ≤ 0x1000 := by
      rw [Fin.getElem_fin, Vector.getElem_set]
      split
      · exact hret
      · exact h.inv.returns_bounded j
    have := nnn.isLt
    exact ⟨_, he, (h.setStack hstack _).setPc (by rw [zextAddr_toNat]; omega)⟩

theorem execDrw_keeps_inv (h : s.Executing) (x y n : Nibble) : ∃ t, execDrw x y n s = .next t ∧ t.Inv := by
  rcases execDrw_cases x y n s with ⟨-, he⟩ | ⟨-, -, he⟩
  · exact ⟨_, he, h.advance_two.congr rfl⟩
  · exact ⟨_, he, h.raiseFrom _ _ _⟩

theorem execSkp_keeps_inv (h : s.Executing) (x : Nibble) : ∃ t, execSkp x s = .next t ∧ t.Inv := by
  rcases execSkp_cases x s with ⟨-, he⟩ | ⟨-, he⟩
  · exact ⟨_, he, h.skipIf _⟩
  · exact ⟨_, he, h.raiseFrom _ _ _⟩

theorem execSknp_keeps_inv (h : s.Executing) (x : Nibble) : ∃ t, execSknp x s = .next t ∧ t.Inv := by
  rcases execSknp_cases x s with ⟨-, he⟩ | ⟨-, he⟩
  · exact ⟨_, he, h.skipIf _⟩
  · exact ⟨_, he, h.raiseFrom _ _ _⟩

theorem execLdB_keeps_inv (h : s.Executing) (x : Nibble) : ∃ t, execLdB x s = .next t ∧ t.Inv := by
  rcases execLdB_cases x s with ⟨-, he⟩ | ⟨-, he⟩
  · exact ⟨_, he, (h.setBytes _ _).advance_two⟩
  · exact ⟨_, he, h.raiseFrom _ _ _⟩

theorem execStoreRegs_keeps_inv (h : s.Executing) (x : Nibble) : ∃ t, execStoreRegs x s = .next t ∧ t.Inv := by
  rcases execStoreRegs_cases x s with ⟨-, he⟩ | ⟨-, he⟩
  · exact ⟨_, he, (h.setBytes _ _).advance_two⟩
  · exact ⟨_, he, h.raiseFrom _ _ _⟩

theorem execLoadRegs_keeps_inv (h : s.Executing) (x : Nibble) : ∃ t, execLoadRegs x s = .next t ∧ t.Inv := by
  rcases execLoadRegs_cases x s with ⟨-, he⟩ | ⟨-, he⟩
  · exact ⟨_, he, h.advance_two.congr (by simp [State.constrained])⟩
  · exact ⟨_, he, h.raiseFrom _ _ _⟩

/-! ## Instructions, Steps, transactions -/

/-- Every instruction completes from a fetched PC and keeps the invariant. Those of the second group advance by 2 and
otherwise write only fields the invariant does not see. -/
theorem exec_keeps_inv (h : s.Executing) (i : Instr) : ∃ t, exec i s = .next t ∧ t.Inv := by
  cases i with
  | seImm | sneImm | seReg | sneReg => exact ⟨_, rfl, h.skipIf _⟩
  | cls | ldImm | addImm | ldReg | orReg | andReg | xorReg | addReg | subReg | shr | subn | shl | rnd | ldI | addI | ldF
  | ldVxDt | ldDtVx | ldStVx => exact ⟨_, rfl, h.advance_two.congr rfl⟩
  | jp nnn => exact execJp_keeps_inv h nnn
  | jpV0 nnn => exact execJpV0_keeps_inv h nnn
  | ret => exact execRet_keeps_inv h
  | call nnn => exact execCall_keeps_inv h nnn
  | drw x y n => exact execDrw_keeps_inv h x y n
  | skp x => exact execSkp_keeps_inv h x
  | sknp x => exact execSknp_keeps_inv h x
  | ldVxK x => exact ⟨_, rfl, h.setWait (some x)⟩
  | ldB x => exact execLdB_keeps_inv h x
  | storeRegs x => exact execStoreRegs_keeps_inv h x
  | loadRegs x => exact execLoadRegs_keeps_inv h x

theorem step_keeps_inv (h : s.Inv) : ∃ t, step s = .next t ∧ t.Inv := by
  rcases step_cases s with ⟨-, hs⟩ | ⟨hh, hw, ⟨a, -, hs⟩ | ⟨op, hf, ⟨e, -, hs⟩ | ⟨i, -, hs⟩⟩⟩
  · exact ⟨_, hs, h⟩
  · exact ⟨_, hs, h.raise _ _ _⟩
  · exact ⟨_, hs, h.raise _ _ _⟩
  · rw [hs]
    exact exec_keeps_inv ⟨h, h.err_eq_none hh, hw, State.pc_le_of_fetch hf⟩ i

/-- KeyDown sets the latch alone, or also completes the pending FX0A of a machine that is not halted (R288). -/
theorem State.pressKey_cases (s : State) (k : Nibble) :
    ((s.halt = true ∨ s.wait = none) ∧ s.pressKey k = s.setKey k true) ∨
    (∃ x, s.halt = false ∧ s.wait = some x ∧
      s.pressKey k = (((s.setKey k true).setReg x (zextKey k)).advance 2).setWait none) := by
  cases hh : s.halt with
  | true => exact .inl ⟨.inl rfl, by simp [State.pressKey, hh]⟩
  | false =>
    cases hw : s.wait with
    | none => exact .inl ⟨.inr rfl, by simp [State.pressKey, hh, hw]⟩
    | some x => exact .inr ⟨x, rfl, rfl, by simp [State.pressKey, hh, hw]⟩

/-- R232, R288: a pending FX0A completes at the PC it was fetched from, as any instruction does. -/
theorem State.Inv.pressKey (h : s.Inv) (k : Nibble) : (s.pressKey k).Inv := by
  rcases s.pressKey_cases k with ⟨-, he⟩ | ⟨x, hh, hw, he⟩
  · rw [he]
    exact h.congr rfl
  · have hpc : s.pc.toNat ≤ 0xFFE := h.waiting_at_fetched (by simp [hw])
    have hx : (s.setWait none).Executing :=
      ⟨{ h with waiting_at_fetched := fun _ => hpc }, h.err_eq_none hh, rfl, hpc⟩
    rw [he]
    exact hx.advance_two.congr rfl

theorem State.Inv.tick (h : s.Inv) : s.tick.Inv := by
  unfold State.tick
  split
  · exact h
  · exact h.congr rfl

theorem State.Inv.loadProgram (h : s.Inv) (bytes : List Byte) : (s.loadProgram bytes).2.Inv := by
  unfold State.loadProgram
  split
  · exact h
  · exact h.setBytes 0x200 bytes

theorem transact_keeps_inv (h : s.Inv) (x : Transaction) : ∃ t, transact x s = .next t ∧ t.Inv := by
  cases x with
  | reset => exact ⟨_, rfl, s.hostReset_inv⟩
  | loadProgram bytes => exact ⟨_, rfl, h.loadProgram bytes⟩
  | step => exact step_keeps_inv h
  | tick => exact ⟨_, rfl, h.tick⟩
  | keyDown k => exact ⟨_, rfl, h.pressKey k⟩
  | keyUp k => exact ⟨_, rfl, h.congr rfl⟩
  | haltRequest => exact ⟨_, rfl, h.setHalt_true⟩
  | clearRedraw => exact ⟨_, rfl, h.congr rfl⟩

theorem transactAll_cons_of_next {x : Transaction} (hx : transact x s = .next t) (xs : List Transaction) :
    transactAll (x :: xs) s = transactAll xs t := by
  simp only [transactAll, hx]

/-- Settles O55, by induction on the transactions: each completes and keeps the invariant. -/
theorem everyRunKeepsTheInvariant : Obligations.EveryRunKeepsTheInvariant := by
  unfold Obligations.EveryRunKeepsTheInvariant
  intro ts
  induction ts with
  | nil => exact fun s h => ⟨s, rfl, h⟩
  | cons x xs ih =>
    intro s h
    obtain ⟨t, hx, ht⟩ := transact_keeps_inv h x
    rw [transactAll_cons_of_next hx]
    exact ih t ht

end Sys2Proof.Machine
end

section
/-! PROOF of O54 and O53. Both are single steps of the induction behind O55: what a Step keeps, and where it starts. -/

namespace Sys2Proof.Machine

/-- Settles O54: a Step from a state of the invariant answers one state, and that state keeps it. -/
theorem everyStepKeepsTheInvariant : Obligations.EveryStepKeepsTheInvariant := by
  unfold Obligations.EveryStepKeepsTheInvariant
  intro s t h hst
  obtain ⟨u, hsu, hu⟩ := step_keeps_inv h
  obtain rfl : t = u := by simpa [hst] using hsu
  exact hu

/-- Settles O53: the state after Reset is what the host's Reset makes of itself. -/
theorem invariantHoldsAtReset : Obligations.InvariantHoldsAtReset :=
  State.reset.hostReset_inv

end Sys2Proof.Machine
end

section
/-! PROOF of O51. Each operation on the state names the registers and parts it writes; an instruction is a chain of such
operations, so it writes no more than they do together. -/

namespace Sys2Proof.Machine

/-! ## What each operation leaves of the parts -/

section

variable {p : Part} (s : State)

theorem samePart_setReg (x : Nibble) (b : Byte) : SamePart p s (s.setReg x b) := by
  cases p <;> simp [SamePart]

theorem samePart_setPc (w : Word) : SamePart p s (s.setPc w) := by
  cases p <;> simp [SamePart]

theorem samePart_setRegs (xs : List Nibble) (bs : List Byte) : SamePart p s (s.setRegs xs bs) := by
  cases p <;> simp [SamePart]

theorem samePart_setI (hp : .index ≠ p) (w : Word) : SamePart p s (s.setI w) := by
  cases p with
  | index => exact absurd rfl hp
  | _ => simp [SamePart]

theorem samePart_setDt (hp : .delayTimer ≠ p) (b : Byte) : SamePart p s (s.setDt b) := by
  cases p with
  | delayTimer => exact absurd rfl hp
  | _ => simp [SamePart]

theorem samePart_setSt (hp : .soundTimer ≠ p) (b : Byte) : SamePart p s (s.setSt b) := by
  cases p with
  | soundTimer => exact absurd rfl hp
  | _ => simp [SamePart]

theorem samePart_setWait (hp : .waitState ≠ p) (w : Option Nibble) : SamePart p s (s.setWait w) := by
  cases p with
  | waitState => exact absurd rfl hp
  | _ => simp [SamePart]

theorem samePart_setRedraw (hp : .redrawFlag ≠ p) (b : Bool) : SamePart p s (s.setRedraw b) := by
  cases p with
  | redrawFlag => exact absurd rfl hp
  | _ => simp [SamePart]

theorem samePart_setFb (hp : .framebuffer ≠ p) (fb : Vector (BitVec 64) 32) : SamePart p s (s.setFb fb) := by
  cases p with
  | framebuffer => exact absurd rfl hp
  | _ => simp [SamePart]

theorem samePart_setStack (hp : .returnStack ≠ p) (stack : Vector Word 16) (depth : Fin 17) :
    SamePart p s (s.setStack stack depth) := by
  cases p with
  | returnStack => exact absurd rfl hp
  | _ => simp [SamePart]

theorem samePart_setBytes (hp : .memory ≠ p) (a : Nat) (bs : List Byte) : SamePart p s (s.setBytes a bs) := by
  cases p with
  | memory => exact absurd rfl hp
  | _ => simp [SamePart]

theorem samePart_drawRandom (hp : .randomIndex ≠ p) : SamePart p s s.drawRandom.2 := by
  cases p with
  | randomIndex => exact absurd rfl hp
  | _ => simp [SamePart]

theorem samePart_raiseFrom (hh : .haltFlag ≠ p) (he : .errorReport ≠ p) (i : Instr) (kind : ErrKind)
    (info : Option Nat) : SamePart p s (s.raiseFrom i kind info) := by
  cases p with
  | haltFlag => exact absurd rfl hh
  | errorReport => exact absurd rfl he
  | _ => simp [SamePart]

end

/-! ## Writing within a list of registers and a list of parts -/

/-- Between `s` and `t` only PC, the registers `xs` and the parts `ps` were written, and REDRAW was not cleared. -/
structure WritesWithin (xs : List Nibble) (ps : List Part) (s t : State) : Prop where
  registers : SameRegistersBut xs s t
  parts : FrameBut ps s t
  redraw_kept : s.redraw = true → t.redraw = true

namespace WritesWithin

variable {xs : List Nibble} {ps : List Part} {s t u : State}

theorem refl (xs : List Nibble) (ps : List Part) (s : State) : WritesWithin xs ps s s :=
  ⟨fun _ _ => rfl, frameBut_refl ps s, id⟩

theorem trans (h : WritesWithin xs ps s t) (h' : WritesWithin xs ps t u) : WritesWithin xs ps s u where
  registers := fun r hr => (h'.registers r hr).trans (h.registers r hr)
  parts := frameBut_trans h.parts h'.parts
  redraw_kept := h'.redraw_kept ∘ h.redraw_kept

theorem sameRegisters (h : WritesWithin [] ps s t) : SameRegisters s t :=
  fun r => h.registers r List.not_mem_nil

theorem setPc (h : WritesWithin xs ps s t) (w : Word) : WritesWithin xs ps s (t.setPc w) :=
  h.trans ⟨fun _ _ => rfl, fun _ _ => samePart_setPc t w, id⟩

theorem advance (h : WritesWithin xs ps s t) (k : Word) : WritesWithin xs ps s (t.advance k) :=
  h.setPc (t.pc + k)

theorem skipIf (h : WritesWithin xs ps s t) (c : Bool) : WritesWithin xs ps s (t.skipIf c) :=
  h.advance (if c then 4 else 2)

theorem setReg (h : WritesWithin xs ps s t) {x : Nibble} (b : Byte) (hx : x ∈ xs := by simp [registerWrites]) :
    WritesWithin xs ps s (t.setReg x b) :=
  h.trans ⟨fun r hr => by simp [(ne_of_mem_of_not_mem hx hr).symm], fun _ _ => samePart_setReg t x b, id⟩

theorem setRegs (h : WritesWithin xs ps s t) (bs : List Byte) : WritesWithin xs ps s (t.setRegs xs bs) :=
  h.trans ⟨fun _ hr => t.reg_setRegs_of_notMem bs hr, fun _ _ => samePart_setRegs t xs bs, by simp⟩

theorem finishResult (h : WritesWithin xs ps s t) {x : Nibble} (b : Byte)
    (hx : x ∈ xs := by simp [registerWrites]) : WritesWithin xs ps s (t.finishResult x b) :=
  (h.setReg b hx).advance 2

theorem finishFlagged (h : WritesWithin xs ps s t) {x : Nibble} (b : Byte) (c : Bool)
    (hx : x ∈ xs := by simp [registerWrites]) (hf : 0xF ∈ xs := by simp [registerWrites]) :
    WritesWithin xs ps s (t.finishFlagged x b c) :=
  ((h.setReg b hx).setReg (flagByte c) hf).advance 2

theorem setI (h : WritesWithin xs ps s t) (w : Word) (hp : .index ∈ ps := by simp [partWrites]) :
    WritesWithin xs ps s (t.setI w) :=
  h.trans ⟨fun _ _ => rfl, fun _ hn => samePart_setI t (ne_of_mem_of_not_mem hp hn) w, id⟩

theorem setDt (h : WritesWithin xs ps s t) (b : Byte) (hp : .delayTimer ∈ ps := by simp [partWrites]) :
    WritesWithin xs ps s (t.setDt b) :=
  h.trans ⟨fun _ _ => rfl, fun _ hn => samePart_setDt t (ne_of_mem_of_not_mem hp hn) b, id⟩

theorem setSt (h : WritesWithin xs ps s t) (b : Byte) (hp : .soundTimer ∈ ps := by simp [partWrites]) :
    WritesWithin xs ps s (t.setSt b) :=
  h.trans ⟨fun _ _ => rfl, fun _ hn => samePart_setSt t (ne_of_mem_of_not_mem hp hn) b, id⟩

theorem setWait (h : WritesWithin xs ps s t) (w : Option Nibble) (hp : .waitState ∈ ps := by simp [partWrites]) :
    WritesWithin xs ps s (t.setWait w) :=
  h.trans ⟨fun _ _ => rfl, fun _ hn => samePart_setWait t (ne_of_mem_of_not_mem hp hn) w, id⟩

/-- R32: an instruction sets REDRAW; only the host clears it. -/
theorem setRedraw_true (h : WritesWithin xs ps s t) (hp : .redrawFlag ∈ ps := by simp [partWrites]) :
    WritesWithin xs ps s (t.setRedraw true) :=
  h.trans ⟨fun _ _ => rfl, fun _ hn => samePart_setRedraw t (ne_of_mem_of_not_mem hp hn) true, fun _ => rfl⟩

theorem setFb (h : WritesWithin xs ps s t) (fb : Vector (BitVec 64) 32)
    (hp : .framebuffer ∈ ps := by simp [partWrites]) : WritesWithin xs ps s (t.setFb fb) :=
  h.trans ⟨fun _ _ => rfl, fun _ hn => samePart_setFb t (ne_of_mem_of_not_mem hp hn) fb, id⟩

theorem setStack (h : WritesWithin xs ps s t) (stack : Vector Word 16) (depth : Fin 17)
    (hp : .returnStack ∈ ps := by simp [partWrites]) : WritesWithin xs ps s (t.setStack stack depth) :=
  h.trans ⟨fun _ _ => rfl, fun _ hn => samePart_setStack t (ne_of_mem_of_not_mem hp hn) stack depth, id⟩

theorem setBytes (h : WritesWithin xs ps s t) (a : Nat) (bs : List Byte)
    (hp : .memory ∈ ps := by simp [partWrites]) : WritesWithin xs ps s (t.setBytes a bs) :=
  h.trans ⟨fun _ _ => by simp, fun _ hn => samePart_setBytes t (ne_of_mem_of_not_mem hp hn) a bs, by simp⟩

theorem drawRandom (h : WritesWithin xs ps s t) (hp : .randomIndex ∈ ps := by simp [partWrites]) :
    WritesWithin xs ps s t.drawRandom.2 :=
  h.trans ⟨fun _ _ => rfl, fun _ hn => samePart_drawRandom t (ne_of_mem_of_not_mem hp hn), id⟩

theorem raiseFrom (h : WritesWithin xs ps s t) (i : Instr) (kind : ErrKind) (info : Option Nat)
    (hh : .haltFlag ∈ ps := by simp [partWrites]) (he : .errorReport ∈ ps := by simp [partWrites]) :
    WritesWithin xs ps s (t.raiseFrom i kind info) :=
  h.trans ⟨fun _ _ => rfl, fun _ hn => samePart_raiseFrom t (ne_of_mem_of_not_mem hh hn)
    (ne_of_mem_of_not_mem he hn) i kind info, id⟩

end WritesWithin

/-! ## The frame of every instruction -/

/-- An instruction completes, and has written within the tables of R22 and of the parts. -/
theorem exec_writesWithin (i : Instr) (s : State) :
    ∃ t, exec i s = .next t ∧ WritesWithin (registerWrites i) (partWrites i) s t := by
  have h := WritesWithin.refl (registerWrites i) (partWrites i) s
  cases i with
  | seImm | sneImm | seReg | sneReg => exact ⟨_, rfl, h.skipIf _⟩
  | jp | jpV0 => exact ⟨_, rfl, h.setPc _⟩
  | ldImm | addImm | ldReg | orReg | andReg | xorReg => exact ⟨_, rfl, h.finishResult _⟩
  | addReg | subReg | shr | subn | shl => exact ⟨_, rfl, h.finishFlagged _ _⟩
  | rnd => exact ⟨_, rfl, h.drawRandom.finishResult _⟩
  | cls => exact ⟨_, rfl, ((h.setFb _).setRedraw_true).advance 2⟩
  | ldI | ldF => exact ⟨_, rfl, (h.setI _).advance 2⟩
  | addI => exact ⟨_, rfl, ((h.setI _).setReg _).advance 2⟩
  | ldVxDt => exact ⟨_, rfl, (h.setReg _).advance 2⟩
  | ldVxK => exact ⟨_, rfl, h.setWait _⟩
  | ldDtVx => exact ⟨_, rfl, (h.setDt _).advance 2⟩
  | ldStVx => exact ⟨_, rfl, (h.setSt _).advance 2⟩
  | ret =>
    rcases execRet_cases s with ⟨-, he⟩ | ⟨hd, he⟩
    · exact ⟨_, he, h.raiseFrom _ _ _⟩
    · exact ⟨_, he, (h.setStack _ _).setPc _⟩
  | call nnn =>
    rcases execCall_cases nnn s with ⟨-, he⟩ | ⟨hd, he⟩
    · exact ⟨_, he, h.raiseFrom _ _ _⟩
    · exact ⟨_, he, (h.setStack _ _).setPc _⟩
  | drw x y n =>
    rcases execDrw_cases x y n s with ⟨-, he⟩ | ⟨-, -, he⟩
    · exact ⟨_, he, (((h.setFb _).setRedraw_true).setReg _).advance 2⟩
    · exact ⟨_, he, h.raiseFrom _ _ _⟩
  | skp x =>
    rcases execSkp_cases x s with ⟨-, he⟩ | ⟨-, he⟩
    · exact ⟨_, he, h.skipIf _⟩
    · exact ⟨_, he, h.raiseFrom _ _ _⟩
  | sknp x =>
    rcases execSknp_cases x s with ⟨-, he⟩ | ⟨-, he⟩
    · exact ⟨_, he, h.skipIf _⟩
    · exact ⟨_, he, h.raiseFrom _ _ _⟩
  | ldB x =>
    rcases execLdB_cases x s with ⟨-, he⟩ | ⟨-, he⟩
    · exact ⟨_, he, (h.setBytes _ _).advance 2⟩
    · exact ⟨_, he, h.raiseFrom _ _ _⟩
  | storeRegs x =>
    rcases execStoreRegs_cases x s with ⟨-, he⟩ | ⟨-, he⟩
    · exact ⟨_, he, (h.setBytes _ _).advance 2⟩
    · exact ⟨_, he, h.raiseFrom _ _ _⟩
  | loadRegs x =>
    rcases execLoadRegs_cases x s with ⟨-, he⟩ | ⟨-, he⟩
    · exact ⟨_, he, (h.setRegs _).advance 2⟩
    · exact ⟨_, he, h.raiseFrom _ _ _⟩

/-- Settles O51: what an instruction answers is the state it has written within its own tables. -/
theorem frameOfEveryInstruction : Obligations.FrameOfEveryInstruction := by
  unfold Obligations.FrameOfEveryInstruction
  intro i s t hst
  obtain ⟨u, hsu, hu⟩ := exec_writesWithin i s
  obtain rfl : t = u := by simpa [hst] using hsu
  exact ⟨hu.registers, hu.parts, hu.redraw_kept⟩

end Sys2Proof.Machine
end

section
/-! PROOF of O18 and O20. SP is the depth count less one, so the two ways 00EE and 2NNN end are those of the depth. -/

namespace Sys2Proof.Machine

variable {s : State}

/-! ## The depth, the words, the report -/

theorem State.sp_eq_neg_one_iff : s.sp = -1 ↔ s.depth.val = 0 := by
  simp only [State.sp]
  omega

theorem State.sp_eq_natCast_iff {k : Nat} : s.sp = (k : Int) ↔ s.depth.val = k + 1 := by
  simp only [State.sp]
  omega

theorem State.sp_lt_fifteen_iff : s.sp < 15 ↔ s.depth.val < 16 := by
  simp only [State.sp]
  omega

theorem decodeWord_formatA_call (nnn : Addr12) : decodeWord (formatA 0x2 nnn) = .ok (.call nnn) := by
  simp [decodeWord]

theorem State.raiseFrom_eq_raised (h : s.err = none) (i : Instr) (kind : ErrKind) (info : Option Nat) :
    s.raiseFrom i kind info = raised s kind (some (encode i)) info := by
  simp [State.raiseFrom, State.raise, raised, h]

/-! ## Return and call -/

theorem execRet_of_empty (hs : s.sp = -1) (he : s.err = none) :
    execRet s = .next (raised s .stackUnderflow (some 0x00EE) none) := by
  have h0 := State.sp_eq_neg_one_iff.mp hs
  rcases execRet_cases s with ⟨-, hx⟩ | ⟨hd, -⟩
  · rw [hx, State.raiseFrom_eq_raised he]
    rfl
  · omega

theorem execRet_of_top (top : Fin 16) (hs : s.sp = (top.val : Int)) :
    ∃ t, execRet s = .next t ∧ t.pc = s.stack[top] ∧ t.sp = s.sp - 1 ∧ t.stack = s.stack ∧
      WritesWithin [] [.returnStack] s t := by
  have hd := State.sp_eq_natCast_iff.mp hs
  rcases execRet_cases s with ⟨h0, -⟩ | ⟨hpos, hx⟩
  · simp [h0] at hd
  · refine ⟨_, hx, ?_, ?_, rfl, ((WritesWithin.refl _ _ s).setStack _ _).setPc _⟩
    · simp [hd]
    · simp [hs, hd]

/-- Settles O18: with an entry on the stack 00EE pops it, with none it reports. -/
theorem returnPopsTheStack : Obligations.ReturnPopsTheStack := by
  unfold Obligations.ReturnPopsTheStack
  intro s
  refine ⟨rfl, fun top hs => ?_, execRet_of_empty⟩
  obtain ⟨t, hx, hpc, hsp, hstack, hw⟩ := execRet_of_top top hs
  exact ⟨t, hx, hpc, hsp, hstack, hw.sameRegisters, hw.parts⟩

theorem execCall_of_full (nnn : Addr12) (hs : s.sp = 15) (he : s.err = none) :
    execCall nnn s = .next (raised s .stackOverflow (some (encode (.call nnn))) none) := by
  have h16 := State.sp_eq_natCast_iff (k := 15).mp hs
  rcases execCall_cases nnn s with ⟨-, hx⟩ | ⟨hd, -⟩
  · rw [hx, State.raiseFrom_eq_raised he]
  · omega

/-- R29, R142: where SP + 1 is a slot, that slot takes PC + 2. -/
theorem execCall_of_room (nnn : Addr12) (hs : s.sp < 15) :
    ∃ t, execCall nnn s = .next t ∧ t.pc = zextAddr nnn ∧ t.sp = s.sp + 1 ∧
      (∀ j : Fin 16, t.stack[j] = if (j.val : Int) = s.sp + 1 then s.pc + 2 else s.stack[j]) ∧
      WritesWithin [] [.returnStack] s t := by
  have hd := State.sp_lt_fifteen_iff.mp hs
  rcases execCall_cases nnn s with ⟨h16, -⟩ | ⟨_, hx⟩
  · simp [h16] at hd
  · refine ⟨_, hx, rfl, ?_, fun j => ?_, ((WritesWithin.refl _ _ s).setStack _ _).setPc _⟩
    · simp [State.sp]
    · have hj : (j.val : Int) = s.sp + 1 ↔ s.depth.val = j.val := by
        simp only [State.sp]
        omega
      simp [Vector.getElem_set, hj]

/-- Settles O20: with a slot free 2NNN pushes and jumps, with none it reports. -/
theorem callPushesTheReturnAddress : Obligations.CallPushesTheReturnAddress := by
  unfold Obligations.CallPushesTheReturnAddress
  intro nnn s
  refine ⟨decodeWord_formatA_call nnn, fun hs => ?_, execCall_of_full nnn⟩
  obtain ⟨t, hx, hpc, hsp, hstack, hw⟩ := execCall_of_room nnn hs
  refine ⟨t, hx, ?_, hsp, fun j hj => ?_, fun j hj => ?_, hw.sameRegisters, hw.parts⟩
  · rw [hpc, zextAddr_toNat]
  · rw [hstack, if_pos hj, BitVec.toNat_add]
    rfl
  · rw [hstack, if_neg hj]

end Sys2Proof.Machine
end

section
/-! PROOF of O49. What the accessors read in the state the host's Reset leaves. -/

namespace Sys2Proof.Machine

variable (s : State)

@[simp] theorem State.hostReset_reg (r : Nibble) : s.hostReset.reg r = 0 := by
  simp [State.reg, State.reset]

@[simp] theorem State.hostReset_sp : s.hostReset.sp = -1 := rfl

@[simp] theorem State.hostReset_getElem_stack (j : Fin 16) : s.hostReset.stack[j] = 0 := by
  simp [State.reset]

@[simp] theorem State.hostReset_pixel (x y : Nat) : s.hostReset.pixel x y = false := by
  simp [State.pixel, framePixel, State.reset]

@[simp] theorem State.hostReset_keyPressed (k : Nibble) : s.hostReset.keyPressed k = false := by
  simp [State.keyPressed, State.reset]

/-- R39: nothing is listed after Reset, so every address reads as what Reset leaves there. -/
theorem State.hostReset_byte (a : Nat) : s.hostReset.byte a = resetByte s.font a := rfl

theorem resetByte_of_lt (font : Vector Byte 80) (a : Fin 80) : resetByte font a.val = font[a] := by
  simp [resetByte]

theorem resetByte_of_ge (font : Vector Byte 80) {a : Nat} (ha : 80 ≤ a) : resetByte font a = 0 := by
  simp [resetByte, ha]

@[simp] theorem State.hostReset_hostReset : s.hostReset.hostReset = s.hostReset := rfl

/-- Settles O49: element by element, the state the host's Reset leaves. -/
theorem resetRestoresEveryElement : Obligations.ResetRestoresEveryElement := by
  unfold Obligations.ResetRestoresEveryElement
  intro s
  have hfont (a : Fin 80) : s.hostReset.byte a.val = s.font[a] :=
    (s.hostReset_byte a).trans (resetByte_of_lt s.font a)
  have hzero (a : Nat) (ha : 80 ≤ a) : s.hostReset.byte a = 0 :=
    (s.hostReset_byte a).trans (resetByte_of_ge s.font ha)
  exact ⟨s.hostReset, rfl, s.hostReset_reg, rfl, rfl, s.hostReset_sp, s.hostReset_getElem_stack, rfl, rfl,
    s.hostReset_pixel, s.hostReset_keyPressed, hfont, hzero, rfl, rfl, rfl, rfl,
    congrArg Host.Outcome.next s.hostReset_hostReset⟩

end Sys2Proof.Machine
end

section
/-! PROOF of O52. Replacing ST and REDRAW before an operation is replacing them after it: no read sees them, and an update
either keeps them or writes them over. -/

namespace Sys2Proof.Machine

/-- The state with other values of ST and REDRAW, the two outputs no instruction reads (R30, R32). -/
def State.withSignals (s : State) (b : Byte) (f : Bool) : State := { s with st := b, redraw := f }

variable (s : State) (b : Byte) (f : Bool)

@[simp] theorem State.withSignals_i : (s.withSignals b f).i = s.i := rfl
@[simp] theorem State.withSignals_pc : (s.withSignals b f).pc = s.pc := rfl
@[simp] theorem State.withSignals_halt : (s.withSignals b f).halt = s.halt := rfl
@[simp] theorem State.withSignals_wait : (s.withSignals b f).wait = s.wait := rfl
@[simp] theorem State.withSignals_reg : (s.withSignals b f).reg = s.reg := rfl

/-! ## Reads and updates that recurse or branch -/

theorem State.fetch_withSignals : (s.withSignals b f).fetch = s.fetch := rfl

theorem State.bytes_withSignals (a n : Nat) : (s.withSignals b f).bytes a n = s.bytes a n := by
  induction n generalizing a with
  | zero => rfl
  | succ n ih => exact congrArg (s.byte a :: ·) (ih (a + 1))

theorem State.memRead_withSignals (a n : Nat) : (s.withSignals b f).memRead a n = s.memRead a n := by
  simp only [State.memRead, State.bytes_withSignals]

theorem State.setBytes_withSignals (a : Nat) (bs : List Byte) :
    (s.withSignals b f).setBytes a bs = (s.setBytes a bs).withSignals b f := by
  induction bs generalizing s a with
  | nil => rfl
  | cons c bs ih => exact ih (s.setByte a c) (a + 1)

theorem State.setRegs_withSignals (xs : List Nibble) (bs : List Byte) :
    (s.withSignals b f).setRegs xs bs = (s.setRegs xs bs).withSignals b f := by
  induction xs generalizing s bs with
  | nil => rfl
  | cons x xs ih =>
    cases bs with
    | nil => rfl
    | cons c bs => exact ih (s.setReg x c) bs

theorem State.memWrite_withSignals (a : Nat) (bs : List Byte) :
    (s.withSignals b f).memWrite a bs = (s.memWrite a bs).map (·.withSignals b f) := by
  simp only [State.memWrite, State.setBytes_withSignals]
  cases firstOutOfRange a bs.length <;> rfl

theorem State.push_withSignals (w : Word) : (s.withSignals b f).push w = (s.push w).map (·.withSignals b f) := by
  by_cases h : s.depth.val < 16
  · rw [s.push_some w h]
    exact (s.withSignals b f).push_some w h
  · have h16 : s.depth = 16 := Fin.ext (by simp; omega)
    rw [s.push_none w h16]
    exact (s.withSignals b f).push_none w h16

theorem State.pop_withSignals : (s.withSignals b f).pop = s.pop.map (Prod.map id (·.withSignals b f)) := by
  by_cases h : 0 < s.depth.val
  · rw [s.pop_some h]
    exact (s.withSignals b f).pop_some h
  · have h0 : s.depth = 0 := Fin.ext (by simp; omega)
    rw [s.pop_none h0]
    exact (s.withSignals b f).pop_none h0

/-! ## Instructions and Steps -/

/-- Whatever ST and REDRAW are, `g` answers the same state up to these two. -/
def SignalBlind (g : State → Host.Outcome State Fault Refusal) : Prop :=
  ∀ (s : State) (b : Byte) (f : Bool), ∃ t b' f', g s = .next t ∧ g (s.withSignals b f) = .next (t.withSignals b' f')

theorem execRet_signalBlind : SignalBlind execRet := by
  intro s b f
  unfold execRet
  rw [State.pop_withSignals]
  cases s.pop with
  | none => exact ⟨_, _, _, rfl, rfl⟩
  | some popped => exact ⟨_, _, _, rfl, rfl⟩

theorem execCall_signalBlind (nnn : Addr12) : SignalBlind (execCall nnn) := by
  intro s b f
  unfold execCall
  rw [State.withSignals_pc, State.push_withSignals]
  cases s.push (s.pc + 2) with
  | none => exact ⟨_, _, _, rfl, rfl⟩
  | some t => exact ⟨_, _, _, rfl, rfl⟩

theorem execDrw_signalBlind (x y n : Nibble) : SignalBlind (execDrw x y n) := by
  intro s b f
  unfold execDrw
  rw [State.withSignals_i, State.memRead_withSignals]
  cases s.memRead s.i.toNat n.toNat with
  | error a => exact ⟨_, _, _, rfl, rfl⟩
  | ok rows => exact ⟨_, _, _, rfl, rfl⟩

theorem execLdB_signalBlind (x : Nibble) : SignalBlind (execLdB x) := by
  intro s b f
  unfold execLdB
  rw [State.withSignals_i, State.withSignals_reg, State.memWrite_withSignals]
  cases s.memWrite s.i.toNat (bcdDigits (s.reg x)) with
  | error a => exact ⟨_, _, _, rfl, rfl⟩
  | ok t => exact ⟨_, _, _, rfl, rfl⟩

theorem execStoreRegs_signalBlind (x : Nibble) : SignalBlind (execStoreRegs x) := by
  intro s b f
  unfold execStoreRegs
  rw [State.withSignals_i, State.withSignals_reg, State.memWrite_withSignals]
  cases s.memWrite s.i.toNat ((registersUpTo x).map s.reg) with
  | error a => exact ⟨_, _, _, rfl, rfl⟩
  | ok t => exact ⟨_, _, _, rfl, rfl⟩

theorem execLoadRegs_signalBlind (x : Nibble) : SignalBlind (execLoadRegs x) := by
  intro s b f
  unfold execLoadRegs
  rw [State.withSignals_i, State.memRead_withSignals]
  cases s.memRead s.i.toNat (x.toNat + 1) with
  | error a => exact ⟨_, _, _, rfl, rfl⟩
  | ok bs =>
    have hset := s.setRegs_withSignals b f (registersUpTo x) bs
    exact ⟨_, _, _, rfl, congrArg (fun t => Host.Outcome.next (t.advance 2)) hset⟩

theorem execSkp_signalBlind (x : Nibble) : SignalBlind (execSkp x) := by
  intro s b f
  unfold execSkp
  rw [State.withSignals_reg]
  cases keyIndex (s.reg x) with
  | none => exact ⟨_, _, _, rfl, rfl⟩
  | some k => exact ⟨_, _, _, rfl, rfl⟩

theorem execSknp_signalBlind (x : Nibble) : SignalBlind (execSknp x) := by
  intro s b f
  unfold execSknp
  rw [State.withSignals_reg]
  cases keyIndex (s.reg x) with
  | none => exact ⟨_, _, _, rfl, rfl⟩
  | some k => exact ⟨_, _, _, rfl, rfl⟩

/-- No instruction reads ST or REDRAW. Those of the last group have no check of their own and read single fields. -/
theorem exec_signalBlind (i : Instr) : SignalBlind (exec i) := by
  cases i with
  | ret => exact execRet_signalBlind
  | call nnn => exact execCall_signalBlind nnn
  | drw x y n => exact execDrw_signalBlind x y n
  | skp x => exact execSkp_signalBlind x
  | sknp x => exact execSknp_signalBlind x
  | ldB x => exact execLdB_signalBlind x
  | storeRegs x => exact execStoreRegs_signalBlind x
  | loadRegs x => exact execLoadRegs_signalBlind x
  | _ => exact fun s b f => ⟨_, _, _, rfl, rfl⟩

theorem step_signalBlind : SignalBlind step := by
  intro s b f
  unfold step
  rw [State.withSignals_halt, State.withSignals_wait, State.fetch_withSignals]
  split
  · exact ⟨s, b, f, rfl, rfl⟩
  · cases s.fetch with
    | error a => exact ⟨_, _, _, rfl, rfl⟩
    | ok op =>
      dsimp only
      cases decodeWord op with
      | error e => exact ⟨_, _, _, rfl, rfl⟩
      | ok i => exact exec_signalBlind i s b f

/-- Settles O52: a Step does not see ST or REDRAW, so what it answers differs in these alone. -/
theorem stepIgnoresSoundTimerAndRedraw : Obligations.StepIgnoresSoundTimerAndRedraw := by
  unfold Obligations.StepIgnoresSoundTimerAndRedraw
  intro s b f
  obtain ⟨t, b', f', hs, hs'⟩ := step_signalBlind s b f
  exact ⟨t, t.withSignals b' f', hs, hs', rfl⟩

end Sys2Proof.Machine
end

section
/-! PROOF of O57. The cells of a memory in canonical form are the addresses whose bytes differ from what an unlisted one
reads as, so its reads determine them, and their order determines the list. -/

namespace Sys2Proof.Machine

/-- A canonical memory lists exactly the bytes in range that differ from what an unlisted address reads as. -/
theorem Memory.mem_iff_of_wf {base : Nat → Byte} {m : Memory} (hm : Memory.wf base m) (c : Host.Cell) :
    c ∈ m ↔ c.1 ≤ 0xFFF ∧ c.2 ≠ base c.1 ∧ Memory.read base m c.1 = c.2 := by
  obtain ⟨hrising, hcells⟩ := hm
  constructor
  · intro hc
    obtain ⟨hrange, hlisted⟩ := hcells c hc
    exact ⟨hrange, hlisted, by simp [Memory.read, Memory.find_of_mem hrising hc]⟩
  · rintro ⟨-, hlisted, hread⟩
    unfold Memory.read at hread
    cases hfind : Memory.find m c.1 with
    | none => exact absurd (by simpa [hfind] using hread.symm) hlisted
    | some v =>
      obtain rfl : v = c.2 := by simpa [hfind] using hread
      exact Memory.mem_of_find hfind

theorem Memory.eq_of_mem_iff {m m' : Memory} (hm : m.Pairwise (fun c d => c.1 < d.1))
    (hm' : m'.Pairwise (fun c d => c.1 < d.1)) (h : ∀ c, c ∈ m ↔ c ∈ m') : m = m' :=
  have : Std.Irrefl (fun c d : Host.Cell => c.1 < d.1) := ⟨fun c => lt_irrefl c.1⟩
  have : Std.Antisymm (fun c d : Host.Cell => c.1 < d.1) := ⟨fun _ _ hcd hdc => absurd hcd hdc.asymm⟩
  List.Pairwise.eq_of_mem_iff hm hm' h

/-- R50: a canonical memory is determined by its bytes in range. -/
theorem Memory.eq_of_read_eq {base : Nat → Byte} {m m' : Memory} (hm : Memory.wf base m) (hm' : Memory.wf base m')
    (h : ∀ a ≤ 0xFFF, Memory.read base m a = Memory.read base m' a) : m = m' := by
  refine Memory.eq_of_mem_iff hm.1 hm'.1 fun c => ?_
  rw [Memory.mem_iff_of_wf hm, Memory.mem_iff_of_wf hm']
  exact and_congr_right fun hrange => by rw [h c.1 hrange]

theorem State.unlisted_congr {s t : State} (h : s.font = t.font) : s.unlisted = t.unlisted := by
  funext a
  simp only [State.unlisted, h]

/-- Settles O57: equal FONT gives the two memories one base, over which their bytes determine them. -/
theorem canonicalMemoriesWithEqualBytesAreEqual : Obligations.CanonicalMemoriesWithEqualBytesAreEqual := by
  unfold Obligations.CanonicalMemoriesWithEqualBytesAreEqual
  intro s t hfont hs ht hbyte
  have hbase := State.unlisted_congr hfont
  simp only [State.byte, hbase] at hs hbyte
  exact Memory.eq_of_read_eq hs ht hbyte

end Sys2Proof.Machine
end

section
/-! PROOF of O38, O7 and O11. A fetch reads the bytes at PC, whatever wrote them last, or reports that they lie past the end
of memory. -/

namespace Sys2Proof.Machine

variable {s t : State}

/-- FX55 lays the registers out in ascending order (R204). -/
theorem State.byte_setBytes_registersUpTo (s : State) {x : Nibble} {a k : Nat} (hk : k ≤ x.toNat) (ha : a + k ≤ 0xFFF) :
    (s.setBytes a ((registersUpTo x).map s.reg)).byte (a + k) = s.reg (BitVec.ofNat 4 k) := by
  have hlisted : a ≤ a + k ∧ a + k < a + ((registersUpTo x).map s.reg).length ∧ a + k ≤ 0xFFF := by simp; omega
  rw [State.byte_setBytes, if_pos hlisted, Nat.add_sub_cancel_left, getD_map_registersUpTo x s.reg k hk]

/-- R204: FX55 within memory puts V[k] at I + k, for k up to X, and advances PC by 2. -/
theorem execStoreRegs_stores {x : Nibble} (h : s.i.toNat + x.toNat ≤ 0xFFF) (hx : execStoreRegs x s = .next t) :
    t.pc = s.pc + 2 ∧ ∀ k ≤ x.toNat, t.byte (s.i.toNat + k) = s.reg (BitVec.ofNat 4 k) := by
  rcases execStoreRegs_cases x s with ⟨-, he⟩ | ⟨hout, -⟩
  · obtain rfl := Host.Outcome.next.inj (he.symm.trans hx)
    exact ⟨by simp, fun k hk => by simpa using s.byte_setBytes_registersUpTo hk (by omega)⟩
  · omega

/-- Settles O38: the next PC is I, where FX55 has put V0 and V1. -/
theorem storedBytesAreFetchedNext : Obligations.StoredBytesAreFetchedNext := by
  unfold Obligations.StoredBytesAreFetchedNext
  intro x s t hx1 hpc hi hfit hexec
  obtain ⟨hnext, hstored⟩ := execStoreRegs_stores hfit hexec
  have htpc : t.pc = s.i := hnext.trans hi.symm
  have hrange : t.pc.toNat ≤ 0xFFE := by
    rw [htpc]
    omega
  have hv0 : t.byte s.i.toNat = s.reg 0x0 := hstored 0 (Nat.zero_le _)
  have hv1 : t.byte (s.i.toNat + 1) = s.reg 0x1 := hstored 1 hx1
  rw [State.fetch_ok t hrange, htpc, hv0, hv1]

/-- R56: the first byte weighs 256. -/
theorem joinBytes_toNat (hi lo : Byte) : (joinBytes hi lo).toNat = 256 * hi.toNat + lo.toNat := by
  rw [joinBytes, BitVec.toNat_append, ← Nat.shiftLeft_add_eq_or_of_lt lo.isLt, Nat.shiftLeft_eq, Nat.mul_comm]

/-- Settles O7: the fetch joins the two bytes, the first one high. -/
theorem fetchIsBigEndian : Obligations.FetchIsBigEndian := by
  unfold Obligations.FetchIsBigEndian
  intro s hpc
  exact ⟨_, s.fetch_ok hpc, joinBytes_toNat _ _⟩

/-- R271: a first error writes its own report. -/
theorem State.raise_eq_raised (h : s.err = none) (kind : ErrKind) (opcode : Option Word) (info : Option Nat) :
    s.raise kind opcode info = raised s kind opcode info := by
  simp [State.raise, raised, h]

/-- R81: a running machine whose PC lies past 0xFFE reports the lowest address above 0xFFF. -/
theorem step_of_pc_beyond (hh : s.halt = false) (hw : s.wait = none) (he : s.err = none) (hpc : 0xFFE < s.pc.toNat) :
    step s = .next (raised s .addressOutOfRange none (some (max s.pc.toNat 0x1000))) := by
  rw [← State.raise_eq_raised he]
  simp [step, hh, hw, s.fetch_error hpc]

/-- Settles O11: of PC and PC + 1 the lowest above 0xFFF is PC itself, or 0x1000 when PC is 0xFFF. -/
theorem fetchBeyondMemoryHalts : Obligations.FetchBeyondMemoryHalts := by
  unfold Obligations.FetchBeyondMemoryHalts
  intro s hh hw he
  refine ⟨fun hpc => ?_, fun hpc => ?_⟩
  · rw [step_of_pc_beyond hh hw he (by omega), Nat.max_eq_left hpc]
  · rw [step_of_pc_beyond hh hw he (by omega), hpc]
    rfl

end Sys2Proof.Machine
end

section
/-! PROOF of O1 and O6. The class of an encoded word picks the decoder's branch, its selector the arm, and the operands are
the fields of its format. -/

namespace Sys2Proof

/-- R85, R87, R88: one way through the decoder for the classes with no selector, one for each selector's place. -/
theorem decodeWord_encode (i : Instr) : decodeWord (encode i) = .ok i := by
  cases i with
  | cls | ret => rfl
  | jp | call | ldI | jpV0 => simp [encode, decodeWord]
  | seImm | sneImm | ldImm | addImm | rnd => simp [encode, decodeWord]
  | seReg | sneReg | drw => simp [encode, decodeWord]
  | ldReg | orReg | andReg | xorReg | addReg | subReg | shr | subn | shl => simp [encode, decodeWord, decodeClass8]
  | skp | sknp => simp [encode, decodeWord, decodeClassE]
  | ldVxDt | ldVxK | ldDtVx | ldStVx | addI | ldF | ldB | storeRegs | loadRegs =>
    simp [encode, decodeWord, decodeClassF]

/-- Settles O1: the two bytes join to the word again, whatever follows them. -/
theorem decodeOfEncodeIsIdentity : Obligations.DecodeOfEncodeIsIdentity := by
  unfold Obligations.DecodeOfEncodeIsIdentity
  exact fun i => ⟨decodeWord_encode i, fun rest => by simp [encodeBytes, decodeBytes, decodeWord_encode]⟩

/-- Settles O6: the decoder run on the nine words. -/
theorem sampleWordsDecode : Obligations.SampleWordsDecode := by
  unfold Obligations.SampleWordsDecode
  decide

end Sys2Proof
end

section
/-! PROOF of O4. A word that matches two rows has, under both masks at once, the bits of either row's value; no two rows
of the table agree there. -/

namespace Sys2Proof

theorem OpcodeRow.covers_iff {r : OpcodeRow} {op : Word} : r.covers op = true ↔ op &&& r.mask = r.value :=
  beq_iff_eq

theorem opcodeRows_differ_under_masks : ∀ j k : Fin 34,
    opcodeTable[j].value &&& opcodeTable[k].mask = opcodeTable[k].value &&& opcodeTable[j].mask → j = k := by
  decide

theorem OpcodeRow.and_mask_comm {r r' : OpcodeRow} {op : Word} (h : r.covers op = true) (h' : r'.covers op = true) :
    r.value &&& r'.mask = r'.value &&& r.mask := by
  rw [← covers_iff.mp h, ← covers_iff.mp h', BitVec.and_assoc, BitVec.and_assoc, BitVec.and_comm r.mask]

/-- Settles O4: two rows that cover one word agree under both masks, so they are one row. -/
theorem opcodeRowsAreDisjoint : Obligations.OpcodeRowsAreDisjoint := by
  unfold Obligations.OpcodeRowsAreDisjoint
  exact fun _ j k hj hk => opcodeRows_differ_under_masks j k (OpcodeRow.and_mask_comm hj hk)

end Sys2Proof
end

section
/-! PROOF of O2, O3 and O5. Whether a word is an instruction is a matter of its class and selector; the rows of the
table, the decoder and plain arithmetic on the word each say the same of them. -/

namespace Sys2Proof

/-- R89 to R94: the class of a word has no selector, or the word's selector is one its class has. -/
def SelectorValid (op : Word) : Prop :=
  (fieldClass op = 0x0 ∧ op ∈ [0x00E0, 0x00EE]) ∨
  fieldClass op ∈ [0x1, 0x2, 0x3, 0x4, 0x6, 0x7, 0xA, 0xB, 0xC, 0xD] ∨
  (fieldClass op ∈ [0x5, 0x9] ∧ fieldN op = 0x0) ∨
  (fieldClass op = 0x8 ∧ fieldN op ∈ [0x0, 0x1, 0x2, 0x3, 0x4, 0x5, 0x6, 0x7, 0xE]) ∨
  (fieldClass op = 0xE ∧ fieldNN op ∈ [0x9E, 0xA1]) ∨
  (fieldClass op = 0xF ∧ fieldNN op ∈ [0x07, 0x0A, 0x15, 0x18, 0x1E, 0x29, 0x33, 0x55, 0x65])

/-! ## The fields as numbers -/

theorem fieldClass_toNat (op : Word) : (fieldClass op).toNat = op.toNat / 0x1000 := by
  rw [fieldClass, BitVec.extractLsb'_toNat, Nat.shiftRight_eq_div_pow]
  omega

theorem fieldN_toNat (op : Word) : (fieldN op).toNat = op.toNat % 0x10 := by
  simp [fieldN]

theorem fieldNN_toNat (op : Word) : (fieldNN op).toNat = op.toNat % 0x100 := by
  simp [fieldNN]

theorem fieldClass_ofNat (k : Nat) : fieldClass (BitVec.ofNat 16 k) = BitVec.ofNat 4 (k / 0x1000) := by
  apply BitVec.eq_of_toNat_eq
  rw [fieldClass_toNat, BitVec.toNat_ofNat, BitVec.toNat_ofNat]
  omega

theorem fieldN_ofNat (k : Nat) : fieldN (BitVec.ofNat 16 k) = BitVec.ofNat 4 k := by
  apply BitVec.eq_of_toNat_eq
  simp [fieldN_toNat]

theorem fieldNN_ofNat (k : Nat) : fieldNN (BitVec.ofNat 16 k) = BitVec.ofNat 8 k := by
  apply BitVec.eq_of_toNat_eq
  simp [fieldNN_toNat]

/-! ## The masks of the table -/

section

variable {op v : Word}

theorem and_word_eq_iff : op &&& 0xFFFF#16 = v ↔ fieldClass op = fieldClass v ∧ op = v := by
  have hall : op &&& 0xFFFF#16 = op := BitVec.and_allOnes
  rw [hall]
  exact ⟨fun h => ⟨congrArg fieldClass h, h⟩, And.right⟩

theorem and_class_eq_iff (hv : v &&& 0xF000#16 = v) : op &&& 0xF000#16 = v ↔ fieldClass op = fieldClass v := by
  refine ⟨fieldClass_of_and_class, fun hc => ?_⟩
  rw [← formatA_fields op, formatA_and, hc, ← formatA_and _ (fieldNNN v), formatA_fields, hv]

theorem and_n_eq_iff (hv : v &&& 0xF00F#16 = v) :
    op &&& 0xF00F#16 = v ↔ fieldClass op = fieldClass v ∧ fieldN op = fieldN v := by
  refine ⟨fun h => ⟨fieldClass_of_and_n h, fieldN_of_and_n h⟩, fun ⟨hc, hn⟩ => ?_⟩
  rw [← formatXYN_fields op, formatXYN_and_selector, hc, hn, ← formatXYN_and_selector _ (fieldX v) (fieldY v),
    formatXYN_fields, hv]

theorem and_nn_eq_iff (hv : v &&& 0xF0FF#16 = v) :
    op &&& 0xF0FF#16 = v ↔ fieldClass op = fieldClass v ∧ fieldNN op = fieldNN v := by
  refine ⟨fun h => ⟨fieldClass_of_and_nn h, fieldNN_of_and_nn h⟩, fun ⟨hc, hn⟩ => ?_⟩
  rw [← formatXK_fields op, formatXK_and_selector, hc, hn, ← formatXK_and_selector _ (fieldX v),
    formatXK_fields, hv]

end

/-- Each row fixes the class of a word, and the selector where the class has one; the two sides list the same classes
and selectors, the table row by row. -/
theorem wellFormedWord_iff (op : Word) : wellFormedWord op = true ↔ SelectorValid op := by
  simp [SelectorValid, wellFormedWord, opcodeTable, opcodeRowsFlow, opcodeRowsAlu, opcodeRowsImm, opcodeRowsSel,
    OpcodeRow.covers, and_word_eq_iff, and_class_eq_iff, and_n_eq_iff, and_nn_eq_iff, fieldClass_ofNat, fieldN_ofNat,
    fieldNN_ofNat]
  grind

open Laws in
theorem Instr.row_covers_encode : ∀ i : Instr, i.row.covers (encode i) = true
  | .cls => TableRow.cls
  | .ret => TableRow.ret
  | .jp _ => TableRow.jp _
  | .call _ => TableRow.call _
  | .seImm _ _ => TableRow.seImm _ _
  | .sneImm _ _ => TableRow.sneImm _ _
  | .seReg _ _ => TableRow.seReg _ _
  | .ldImm _ _ => TableRow.ldImm _ _
  | .addImm _ _ => TableRow.addImm _ _
  | .ldReg _ _ => TableRow.ldReg _ _
  | .orReg _ _ => TableRow.orReg _ _
  | .andReg _ _ => TableRow.andReg _ _
  | .xorReg _ _ => TableRow.xorReg _ _
  | .addReg _ _ => TableRow.addReg _ _
  | .subReg _ _ => TableRow.subReg _ _
  | .shr _ _ => TableRow.shr _ _
  | .subn _ _ => TableRow.subn _ _
  | .shl _ _ => TableRow.shl _ _
  | .sneReg _ _ => TableRow.sneReg _ _
  | .ldI _ => TableRow.ldI _
  | .jpV0 _ => TableRow.jpV0 _
  | .rnd _ _ => TableRow.rnd _ _
  | .drw _ _ _ => TableRow.drw _ _ _
  | .skp _ => TableRow.skp _
  | .sknp _ => TableRow.sknp _
  | .ldVxDt _ => TableRow.ldVxDt _
  | .ldVxK _ => TableRow.ldVxK _
  | .ldDtVx _ => TableRow.ldDtVx _
  | .ldStVx _ => TableRow.ldStVx _
  | .addI _ => TableRow.addI _
  | .ldF _ => TableRow.ldF _
  | .ldB _ => TableRow.ldB _
  | .storeRegs _ => TableRow.storeRegs _
  | .loadRegs _ => TableRow.loadRegs _

theorem Instr.row_mem (i : Instr) : i.row ∈ opcodeTable :=
  List.getElem_mem _

theorem wellFormedWord_encode (i : Instr) : wellFormedWord (encode i) = true :=
  List.any_eq_true.mpr ⟨i.row, i.row_mem, i.row_covers_encode⟩

/-! ## What the decoder answers -/

/-- The answers a decoder may give for a word: an instruction whose word it is, or, when the word's class and selector
are none of R88, the word as an invalid opcode (R95). -/
inductive DecodesTo (op : Word) : Except DecodeError Instr → Prop where
  | instr {i : Instr} (h : encode i = op) : DecodesTo op (.ok i)
  | invalid (h : ¬ SelectorValid op) : DecodesTo op (.error (.invalidOpcode op))

section

variable {op : Word} {c : Nibble}

theorem formatA_of_class (hc : fieldClass op = c) : formatA c (fieldNNN op) = op := by
  rw [← hc, formatA_fields]

theorem formatXK_of_selector {nn : Byte} (hc : fieldClass op = c) (hn : fieldNN op = nn) :
    formatXK c (fieldX op) nn = op := by
  rw [← hc, ← hn, formatXK_fields]

theorem formatXYN_of_selector {n : Nibble} (hc : fieldClass op = c) (hn : fieldN op = n) :
    formatXYN c (fieldX op) (fieldY op) n = op := by
  rw [← hc, ← hn, formatXYN_fields]

theorem decodeClass0_decodesTo (hc : fieldClass op = 0x0) : DecodesTo op (decodeClass0 op) := by
  unfold decodeClass0
  split
  case isTrue h => exact .instr h.symm
  case isFalse =>
    split
    case isTrue h => exact .instr h.symm
    case isFalse => exact .invalid (by simp_all [SelectorValid])

theorem decodeClass8_decodesTo (hc : fieldClass op = 0x8) : DecodesTo op (decodeClass8 op) := by
  unfold decodeClass8
  split
  case h_10 => exact .invalid (by simp_all [SelectorValid])
  all_goals exact .instr (formatXYN_of_selector hc ‹_›)

theorem decodeClassE_decodesTo (hc : fieldClass op = 0xE) : DecodesTo op (decodeClassE op) := by
  unfold decodeClassE
  split
  case h_3 => exact .invalid (by simp_all [SelectorValid])
  all_goals exact .instr (formatXK_of_selector hc ‹_›)

theorem decodeClassF_decodesTo (hc : fieldClass op = 0xF) : DecodesTo op (decodeClassF op) := by
  unfold decodeClassF
  split
  case h_10 => exact .invalid (by simp_all [SelectorValid])
  all_goals exact .instr (formatXK_of_selector hc ‹_›)

end

/-- R85: class by class; the tag `h_k` is the branch of class k - 1, the last one that of no class. -/
theorem decodeWord_decodesTo (op : Word) : DecodesTo op (decodeWord op) := by
  unfold decodeWord
  split
  case h_1 hc => exact decodeClass0_decodesTo hc
  case h_2 hc | h_3 hc | h_11 hc | h_12 hc => exact .instr (formatA_of_class hc)
  case h_4 hc | h_5 hc | h_7 hc | h_8 hc | h_13 hc => exact .instr (formatXK_of_selector hc rfl)
  case h_6 hc | h_10 hc =>
    split
    case isTrue hn => exact .instr (formatXYN_of_selector hc hn)
    case isFalse => exact .invalid (by simp_all [SelectorValid])
  case h_9 hc => exact decodeClass8_decodesTo hc
  case h_14 hc => exact .instr (formatXYN_of_selector hc rfl)
  case h_15 hc => exact decodeClassE_decodesTo hc
  case h_16 hc => exact decodeClassF_decodesTo hc
  case h_17 => exact .invalid (by simp_all [SelectorValid])

/-- Everything the decoder can answer: an instruction whose word the given one is, or the word itself as an error. -/
theorem decodeWord_cases (op : Word) :
    (∃ i, decodeWord op = .ok i ∧ encode i = op ∧ SelectorValid op) ∨
    (decodeWord op = .error (.invalidOpcode op) ∧ ¬ SelectorValid op) := by
  have hspec := decodeWord_decodesTo op
  generalize decodeWord op = answer at hspec ⊢
  cases hspec with
  | instr he => exact .inl ⟨_, rfl, he, (wellFormedWord_iff op).mp (he ▸ wellFormedWord_encode _)⟩
  | invalid hn => exact .inr ⟨rfl, hn⟩

theorem exists_decodeWord_eq_ok_iff (op : Word) : (∃ i, decodeWord op = .ok i) ↔ SelectorValid op := by
  rcases decodeWord_cases op with ⟨i, hd, -, hv⟩ | ⟨hd, hn⟩
  · exact iff_of_true ⟨i, hd⟩ hv
  · simp [hd, hn]

/-- Settles O2: the one instruction the decoder can answer for a word is the one encoded by it. -/
theorem encodeOfDecodedWordIsThatWord : Obligations.EncodeOfDecodedWordIsThatWord := by
  unfold Obligations.EncodeOfDecodedWordIsThatWord
  intro op i h
  rcases decodeWord_cases op with ⟨j, hd, he, -⟩ | ⟨hd, -⟩
  · obtain rfl := Except.ok.inj (hd.symm.trans h)
    exact he
  · simp [hd] at h

/-- Settles O3: a decoded word is the word of its instruction, which its own row covers, and a word that some row covers
has a valid selector. -/
theorem decoderFollowsTheOpcodeTable : Obligations.DecoderFollowsTheOpcodeTable := by
  unfold Obligations.DecoderFollowsTheOpcodeTable
  refine ⟨rfl, fun op => ?_⟩
  rcases decodeWord_cases op with ⟨i, hd, rfl, -⟩ | ⟨hd, hn⟩
  · exact .inl ⟨i, hd, i.row_mem, OpcodeRow.covers_iff.mp i.row_covers_encode⟩
  · refine .inr ⟨hd, fun r hr hm => hn ?_⟩
    exact (wellFormedWord_iff op).mp (List.any_eq_true.mpr ⟨r, hr, OpcodeRow.covers_iff.mpr hm⟩)

/-- Settles O5: the fields of a valid word are quotient and remainders of its number. -/
theorem validWordsClassByClass : Obligations.ValidWordsClassByClass := by
  unfold Obligations.ValidWordsClassByClass
  intro op
  have hclass0 : fieldClass op = 0x0 ∧ op ∈ [0x00E0, 0x00EE] ↔ op ∈ [0x00E0, 0x00EE] := by
    refine and_iff_right_of_imp fun h => ?_
    rcases List.mem_pair.mp h with rfl | rfl <;> rfl
  rw [exists_decodeWord_eq_ok_iff, SelectorValid, hclass0]
  simp [← BitVec.toNat_inj, fieldClass_toNat, fieldN_toNat, fieldNN_toNat]

end Sys2Proof
end

section
/-! PROOF of O8, O12 and O58. A Step of a running machine goes by what the decoder answers for the word at PC, and a
placed word is the word at PC. -/

namespace Sys2Proof.Machine

variable (s : State)

/-- Settles O8: the fetch joins the two bytes at PC. -/
theorem stepExecutesTheDecodedInstruction : Obligations.StepExecutesTheDecodedInstruction := by
  unfold Obligations.StepExecutesTheDecodedInstruction
  exact fun s i hh hw hpc hd => step_of_decoded hh hw (s.fetch_ok hpc) hd

/-- Settles O12: the decoder refuses a word that no row covers, and a first error writes its own report. -/
theorem invalidOpcodeHaltsAndReports : Obligations.InvalidOpcodeHaltsAndReports := by
  unfold Obligations.InvalidOpcodeHaltsAndReports
  intro s op hh hw he hf hwf
  rcases decodeWord_cases op with ⟨i, -, rfl, -⟩ | ⟨hd, -⟩
  · simp [wellFormedWord_encode] at hwf
  · rw [← State.raise_eq_raised he]
    simp [step, hh, hw, hf, hd]

/-! ## A word placed at PC -/

theorem tableWord_toNat (op : Word) : tableWord 16 op.toNat = op := by
  rw [tableWord, Nat.mod_eq_of_lt op.isLt, BitVec.ofNat_toNat, BitVec.setWidth_eq]

theorem State.withFetchWord_toNat (op : Word) : s.withFetchWord 16 op.toNat = s.placeWord op := by
  rw [State.withFetchWord, tableWord_toNat]

theorem State.fetchablePc_le : s.fetchablePc.toNat ≤ 0xFFE := by
  unfold State.fetchablePc
  split
  · omega
  · decide

theorem State.fetchablePc_of_le (h : s.pc.toNat ≤ 0xFFE) : s.fetchablePc = s.pc :=
  if_pos (by omega)

theorem samePart_setHalt {p : Part} (hp : .haltFlag ≠ p) (b : Bool) : SamePart p s (s.setHalt b) := by
  cases p with
  | haltFlag => exact absurd rfl hp
  | _ => simp [SamePart]

theorem WritesWithin.setHalt {xs : List Nibble} {ps : List Part} {s t : State} (h : WritesWithin xs ps s t) (b : Bool)
    (hp : .haltFlag ∈ ps := by simp) : WritesWithin xs ps s (t.setHalt b) :=
  h.trans ⟨fun _ _ => rfl, fun _ hn => samePart_setHalt t (ne_of_mem_of_not_mem hp hn) b, id⟩

theorem State.placeWord_writesWithin (op : Word) :
    WritesWithin [] [.memory, .haltFlag, .waitState] s (s.placeWord op) :=
  ((((WritesWithin.refl _ _ s).setHalt false).setWait none).setPc _).setBytes _ _

@[simp] theorem State.placeWord_halt (op : Word) : (s.placeWord op).halt = false := by simp [State.placeWord]
@[simp] theorem State.placeWord_wait (op : Word) : (s.placeWord op).wait = none := by simp [State.placeWord]
@[simp] theorem State.placeWord_pc (op : Word) : (s.placeWord op).pc = s.fetchablePc := by simp [State.placeWord]

theorem State.placeWord_byte (op : Word) (a : Nat) : (s.placeWord op).byte a =
    if a = s.fetchablePc.toNat + 1 then lowByte op else if a = s.fetchablePc.toNat then highByte op else s.byte a := by
  have hpc := s.fetchablePc_le
  have hlow : s.fetchablePc.toNat + 1 ≤ 0xFFF := by omega
  have hhigh : s.fetchablePc.toNat ≤ 0xFFF := by omega
  simp [State.placeWord, State.setBytes, State.byte_setByte, hlow, hhigh]

theorem State.placeWord_fetch (op : Word) : (s.placeWord op).fetch = .ok op := by
  rw [State.fetch_ok _ (by simpa using s.fetchablePc_le)]
  simp [State.placeWord_byte]

/-- Settles O58: the two bytes placed join to the word that the next fetch reads. -/
theorem placedWordIsTheNextInstruction : Obligations.PlacedWordIsTheNextInstruction := by
  unfold Obligations.PlacedWordIsTheNextInstruction
  intro s op i hd
  rw [s.withFetchWord_toNat]
  have hwrites := s.placeWord_writesWithin op
  refine ⟨step_of_decoded (s.placeWord_halt op) (s.placeWord_wait op) (s.placeWord_fetch op) hd,
    hwrites.sameRegisters, hwrites.parts, fun hpc => ?_, fun a h0 h1 => ?_⟩
  · rw [s.placeWord_pc, s.fetchablePc_of_le hpc]
  · rw [s.placeWord_pc] at h0 h1
    rw [s.placeWord_byte, if_neg h1, if_neg h0]

end Sys2Proof.Machine
end

section
/-! PROOF of O15, O16 and O17. A draw is told by the pixels its sprite covers: those change, and a set one among them is
the collision. The second draw of the same sprite covers the same pixels. -/

namespace Sys2Proof.Machine

variable {s t u : State} {x y n : Nibble} {px py : Nat}

/-! ## Clearing the screen -/

@[simp] theorem State.setFb_pixel (s : State) (fb : Vector (BitVec 64) 32) (px py : Nat) :
    (s.setFb fb).pixel px py = framePixel fb px py := rfl

@[simp] theorem framePixel_replicate_zero (px py : Nat) : framePixel (.replicate 32 0#64) px py = false := by
  simp [framePixel]

/-- Settles O15: an empty framebuffer has no pixel set, and the two parts written are the frame's exceptions. -/
theorem clearScreenClearsEveryPixel : Obligations.ClearScreenClearsEveryPixel := by
  unfold Obligations.ClearScreenClearsEveryPixel
  intro s
  have hw : WritesWithin [] [.framebuffer, .redrawFlag] s _ :=
    (((WritesWithin.refl _ _ s).setFb (.replicate 32 0)).setRedraw_true).advance 2
  exact ⟨decodeWord_encode .cls, _, rfl, fun px py => by simp, rfl, rfl, hw.sameRegisters, hw.parts⟩

/-! ## The pixels a sprite covers -/

/-- The rows that DXYN reads cover the pixels R121 names. -/
theorem rowsCover_bytes_iff :
    rowsCover (startColumn (s.reg x)) (startRow (s.reg y)) (s.bytes s.i.toNat n.toNat) 0 px py = true ↔
      SpriteCovers s x y n px py := by
  rw [rowsCover_iff, State.length_bytes]
  refine exists_congr fun r => and_congr_right fun hr => ?_
  rw [rowCovers_iff, State.getD_bytes _ _ _ _ hr, Nat.zero_add]
  rfl

/-- Columns and rows wrap, so a covered pixel is one of the display. -/
theorem SpriteCovers.lt (h : SpriteCovers s x y n px py) : px < 64 ∧ py < 32 := by
  obtain ⟨r, _, c, _, _, rfl, rfl⟩ := h
  exact ⟨Nat.mod_lt _ (by decide), Nat.mod_lt _ (by decide)⟩

/-- The sprite and its place are read from I, V[X], V[Y] and memory alone. -/
theorem spriteCovers_congr (hi : t.i = s.i) (hx : t.reg x = s.reg x) (hy : t.reg y = s.reg y)
    (hb : ∀ a, t.byte a = s.byte a) : SpriteCovers t x y n px py ↔ SpriteCovers s x y n px py := by
  simp only [SpriteCovers, hi, hx, hy, hb]

theorem exists_spriteBit_of_ne_zero {row : Byte} (h : row ≠ 0) : ∃ c < 8, row.getLsbD (7 - c) = true := by
  by_contra! hc
  refine h (BitVec.eq_of_getLsbD_eq fun k hk => ?_)
  have := hc (7 - k) (by omega)
  rw [show 7 - (7 - k) = k by omega] at this
  simpa using this

/-- A sprite covers some pixel when one of its bytes is not zero, and only then. -/
theorem exists_spriteCovers_iff :
    (∃ px py, SpriteCovers s x y n px py) ↔ ∃ r < n.toNat, s.byte (s.i.toNat + r) ≠ 0 := by
  constructor
  · rintro ⟨px, py, r, hr, c, _, hbit, _⟩
    exact ⟨r, hr, fun h0 => by simp [h0] at hbit⟩
  · rintro ⟨r, hr, h0⟩
    obtain ⟨c, hc, hbit⟩ := exists_spriteBit_of_ne_zero h0
    exact ⟨_, _, r, hr, c, hc, hbit, rfl, rfl⟩

/-! ## One draw -/

/-- A set pixel is covered by the sprite (R121). -/
def SpriteCollides (s : State) (x y n : Nibble) : Prop := ∃ px py, s.pixel px py = true ∧ SpriteCovers s x y n px py

/-- What DXYN does where it completes (R121). -/
structure Draws (x y n : Nibble) (s t : State) : Prop where
  toggles : ∀ px py, t.pixel px py ≠ s.pixel px py ↔ SpriteCovers s x y n px py
  flag_set : SpriteCollides s x y n → t.reg 0xF = 1
  flag_clear : ¬ SpriteCollides s x y n → t.reg 0xF = 0
  redraw : t.redraw = true
  pc : t.pc = s.pc + 2
  writes : WritesWithin [0xF] [.framebuffer, .redrawFlag] s t

/-- With every row in memory, or none to read, DXYN draws. -/
theorem execDrw_draws (x y : Nibble) (h : n.toNat = 0 ∨ s.i.toNat + n.toNat - 1 ≤ 0xFFF) :
    ∃ t, execDrw x y n s = .next t ∧ Draws x y n s t := by
  rcases execDrw_cases x y n s with ⟨-, he⟩ | ⟨hn, hr, -⟩
  case inr => omega
  have hrows : (s.bytes s.i.toNat n.toNat).length ≤ 32 := by
    have := n.isLt
    rw [State.length_bytes]
    omega
  obtain ⟨hpixel, hflag⟩ := drawSprite_spec s.fb (startColumn (s.reg x)) (startRow (s.reg y)) _ hrows
  simp only [rowsCover_bytes_iff] at hflag
  refine ⟨_, he, ?toggles, fun hc => ?flag_set, fun hc => ?flag_clear, rfl, rfl,
    ((((WritesWithin.refl _ _ s).setFb _).setRedraw_true).setReg _).advance 2⟩
  case toggles =>
    intro px py
    change framePixel (drawSprite _ _ _ _).1 px py ≠ framePixel s.fb px py ↔ _
    rw [← rowsCover_bytes_iff, hpixel]
    cases rowsCover _ _ _ _ px py <;> simp
  case flag_set => simp [hflag.mpr hc]
  case flag_clear => simp [mt hflag.mp hc]

namespace Draws

theorem pixel_of_covers (h : Draws x y n s t) (hc : SpriteCovers s x y n px py) : t.pixel px py = !s.pixel px py :=
  Bool.eq_not.mpr ((h.toggles px py).mpr hc)

theorem pixel_of_not_covers (h : Draws x y n s t) (hc : ¬ SpriteCovers s x y n px py) :
    t.pixel px py = s.pixel px py :=
  not_ne_iff.mp (mt (h.toggles px py).mp hc)

/-- A collision is a pixel of the display that was set and is clear. -/
theorem collides_iff (h : Draws x y n s t) :
    SpriteCollides s x y n ↔ ∃ px < 64, ∃ py < 32, s.pixel px py = true ∧ t.pixel px py = false := by
  constructor
  · rintro ⟨px, py, hset, hc⟩
    exact ⟨px, hc.lt.1, py, hc.lt.2, hset, by simp [h.pixel_of_covers hc, hset]⟩
  · rintro ⟨px, _, py, _, hset, hclear⟩
    exact ⟨px, py, hset, (h.toggles px py).mp (by simp [hset, hclear])⟩

theorem not_collides_of_flag (h : Draws x y n s t) (hf : t.reg 0xF = 0) : ¬ SpriteCollides s x y n := by
  intro hc
  exact absurd ((h.flag_set hc).symm.trans hf) (by decide)

/-- After a draw whose coordinates are not in VF, the same instruction covers the same pixels (R123). -/
theorem covers_iff (h : Draws x y n s t) (hx : x ≠ 0xF) (hy : y ≠ 0xF) :
    SpriteCovers t x y n px py ↔ SpriteCovers s x y n px py :=
  spriteCovers_congr (h.writes.parts .index (by decide)) (h.writes.registers x (by simpa using hx))
    (h.writes.registers y (by simpa using hy)) (h.writes.parts .memory (by decide))

/-- R123: two toggles give each pixel back. -/
theorem pixel_twice (h : Draws x y n s t) (h' : Draws x y n t u) (hx : x ≠ 0xF) (hy : y ≠ 0xF) (px py : Nat) :
    u.pixel px py = s.pixel px py := by
  by_cases hc : SpriteCovers s x y n px py
  · rw [h'.pixel_of_covers ((h.covers_iff hx hy).mpr hc), h.pixel_of_covers hc, Bool.not_not]
  · rw [h'.pixel_of_not_covers (mt (h.covers_iff hx hy).mp hc), h.pixel_of_not_covers hc]

/-- R123: a draw without collision leaves each pixel it covers set, so the next one collides there. -/
theorem collides_again_iff (h : Draws x y n s t) (hx : x ≠ 0xF) (hy : y ≠ 0xF) (hn : ¬ SpriteCollides s x y n) :
    SpriteCollides t x y n ↔ ∃ r < n.toNat, s.byte (s.i.toNat + r) ≠ 0 := by
  rw [← exists_spriteCovers_iff (x := x) (y := y)]
  refine exists_congr fun px => exists_congr fun py => ?_
  rw [h.covers_iff hx hy, and_iff_right_iff_imp]
  intro hc
  have hclear : s.pixel px py = false := Bool.eq_false_of_not_eq_true fun hset => hn ⟨px, py, hset, hc⟩
  rw [h.pixel_of_covers hc, hclear, Bool.not_false]

end Draws

/-! ## The obligations on DXYN -/

/-- Settles O16: where no row lies above memory DXYN draws, and a collision is a set pixel that is clear afterwards. -/
theorem drawTogglesCoveredPixelsAndFlagsCollision : Obligations.DrawTogglesCoveredPixelsAndFlagsCollision := by
  unfold Obligations.DrawTogglesCoveredPixelsAndFlagsCollision
  intro x y n s
  refine ⟨decodeWord_encode (.drw x y n), fun hr => ?_⟩
  obtain ⟨t, he, h⟩ := execDrw_draws x y hr
  refine ⟨t, he, fun px _ py _ => ⟨h.pixel_of_covers, h.pixel_of_not_covers⟩, h.flag_set ∘ h.collides_iff.mpr,
    fun hkept => h.flag_clear fun hc => ?_, h.redraw, h.pc, h.writes.registers, h.writes.parts⟩
  obtain ⟨px, hpx, py, hpy, hset, hclear⟩ := h.collides_iff.mp hc
  simp [hkept px hpx py hpy hset] at hclear

/-- Settles O17: the second draw covers the pixels of the first, which are all set when the first met no collision. -/
theorem drawingTwiceRestoresTheScreen : Obligations.DrawingTwiceRestoresTheScreen := by
  unfold Obligations.DrawingTwiceRestoresTheScreen
  intro x y n s t u hx hy hr hst htu
  obtain ⟨t', he, h⟩ := execDrw_draws x y hr
  obtain rfl : t' = t := by simpa [he] using hst
  have hi : t'.i = s.i := h.writes.parts .index (by decide)
  obtain ⟨u', he', h'⟩ := execDrw_draws (s := t') x y (hi ▸ hr)
  obtain rfl : u' = u := by simpa [he'] using htu
  refine ⟨h.pixel_twice h' hx hy, fun hflag => ?_⟩
  have hagain := h.collides_again_iff hx hy (h.not_collides_of_flag hflag)
  refine ⟨h'.flag_set ∘ hagain.mpr, fun hzero => h'.flag_clear fun hc => ?_⟩
  obtain ⟨r, hrow, hne⟩ := hagain.mp hc
  exact hne (hzero r hrow)

end Sys2Proof.Machine
end

section
/-! PROOF of O21. A body whose calls and returns match leaves SP and the entries up to SP alone, so the RET after it
pops the entry the CALL before it pushed. -/

namespace Sys2Proof.Machine

variable {s t u : State} {i : Instr} {is js body : List Instr} {d : Nat}

/-! ## Instructions one after another -/

theorem execAll_cons_of_next (h : exec i s = .next t) : execAll (i :: is) s = execAll is t := by
  rw [execAll, h]

theorem execAll_append_of_next (h : execAll is s = .next t) : execAll (is ++ js) s = execAll js t := by
  induction is generalizing s with
  | nil =>
    obtain rfl : s = t := by simpa [execAll] using h
    rfl
  | cons i is ih =>
    obtain ⟨u, hu, -⟩ := exec_writesWithin i s
    rw [execAll_cons_of_next hu] at h
    rw [List.cons_append, execAll_cons_of_next hu, ih h]

/-! ## The pending return addresses -/

/-- R28: the entries pending in `s` are those pending in `t`. Slots above SP may differ. -/
structure SamePending (s t : State) : Prop where
  sp : t.sp = s.sp
  slots : ∀ j : Fin 16, (j.val : Int) ≤ s.sp → t.stack[j] = s.stack[j]

theorem SamePending.refl (s : State) : SamePending s s := ⟨rfl, fun _ _ => rfl⟩

theorem SamePending.trans (h : SamePending s t) (h' : SamePending t u) : SamePending s u where
  sp := h'.sp.trans h.sp
  slots j hj := (h'.slots j (h.sp ▸ hj)).trans (h.slots j hj)

theorem returnStack_notMem_partWrites (hc : ∀ nnn, i ≠ .call nnn) (hr : i ≠ .ret) : .returnStack ∉ partWrites i := by
  cases i with
  | call nnn => exact absurd rfl (hc nnn)
  | ret => exact absurd rfl hr
  | _ => simp [partWrites]

/-- R27: only 2NNN and 00EE write the stack, so any other instruction keeps it, one that raises an error included. -/
theorem exec_samePending (s : State) (hc : ∀ nnn, i ≠ .call nnn) (hr : i ≠ .ret) :
    ∃ t, exec i s = .next t ∧ SamePending s t := by
  obtain ⟨t, ht, hw⟩ := exec_writesWithin i s
  obtain ⟨hstack, hsp⟩ := hw.parts .returnStack (returnStack_notMem_partWrites hc hr)
  exact ⟨t, ht, hsp, fun j _ => by rw [hstack]⟩

/-! ## Matched calls and returns -/

/-- From every state with `d` slots free the instructions complete and leave the pending entries as they were. -/
def Balanced (d : Nat) (is : List Instr) : Prop :=
  ∀ s : State, s.sp + d < 16 → ∃ t, execAll is s = .next t ∧ SamePending s t

/-- R148: the slot the CALL pushes PC + 2 to is pending throughout the body, so RET finds it there. -/
theorem Balanced.call_ret (hb : Balanced d body) (nnn : Addr12) (hs : s.sp + d + 1 < 16) :
    ∃ t, execAll (.call nnn :: (body ++ [.ret])) s = .next t ∧ t.pc = s.pc + 2 ∧ SamePending s t := by
  obtain ⟨a, ha, -, hasp, hastack, -⟩ := execCall_of_room nnn (s := s) (by omega)
  obtain ⟨b, hab, hpending⟩ := hb a (by omega)
  have hpushed : ∃ top : Fin 16, s.sp + 1 = (top.val : Int) :=
    ⟨⟨s.depth.val, State.sp_lt_fifteen_iff.mp (by omega)⟩, by simp [State.sp]⟩
  obtain ⟨top, htop⟩ := hpushed
  obtain ⟨t, hbt, hpc, htsp, htstack, -⟩ := execRet_of_top top (hpending.sp.trans (hasp.trans htop))
  refine ⟨t, ?_, ?_, ?_, fun j hj => ?_⟩
  · rw [execAll_cons_of_next (i := .call nnn) ha, execAll_append_of_next hab, execAll_cons_of_next (i := .ret) hbt,
      execAll]
  · rw [hpc, hpending.slots top (by omega), hastack, if_pos htop.symm]
  · rw [htsp, hpending.sp, hasp, Int.add_sub_cancel]
  · rw [htstack, hpending.slots j (by omega), hastack, if_neg (by omega)]

theorem Nested.balanced (h : Nested d is) : Balanced d is := by
  induction h with
  | done d => exact fun s _ => ⟨s, rfl, .refl s⟩
  | other hc hr _ ih =>
    intro s hs
    obtain ⟨t, hst, h⟩ := exec_samePending s hc hr
    obtain ⟨u, htu, h'⟩ := ih t (h.sp ▸ hs)
    exact ⟨u, by rw [execAll_cons_of_next hst, htu], h.trans h'⟩
  | @called d nnn body is _ _ ihb ih =>
    intro s hs
    obtain ⟨t, hst, -, h⟩ := ihb.call_ret nnn (s := s) (by omega)
    obtain ⟨u, htu, h'⟩ := ih t (h.sp ▸ hs)
    have hsplit : .call nnn :: (body ++ .ret :: is) = (.call nnn :: (body ++ [.ret])) ++ is := by simp
    exact ⟨u, by rw [hsplit, execAll_append_of_next hst, htu], h.trans h'⟩

/-- Settles O21: the body is balanced, so the RET pops what the CALL pushed. -/
theorem callBodyReturnResumesAfterTheCall : Obligations.CallBodyReturnResumesAfterTheCall := by
  unfold Obligations.CallBodyReturnResumesAfterTheCall
  intro d nnn body s hn hs
  obtain ⟨t, hst, hpc, h⟩ := hn.balanced.call_ret nnn (s := s) (by omega)
  exact ⟨t, hst, hpc, h.sp, h.slots⟩

end Sys2Proof.Machine
end

section
/-! PROOF of O19, O22, O23 and O24. A jump or a skip writes PC and nothing else. -/

namespace Sys2Proof.Machine

variable (s : State)

/-! ## Jumps -/

theorem State.setPc_frame (w : Word) : SameRegisters s (s.setPc w) ∧ FrameBut [] s (s.setPc w) :=
  have h := (WritesWithin.refl [] [] s).setPc w
  ⟨h.sameRegisters, h.parts⟩

/-- Settles O19: the target is NNN itself, of 12 bits. -/
theorem jumpSetsPc : Obligations.JumpSetsPc := by
  unfold Obligations.JumpSetsPc
  exact fun nnn s => ⟨decodeWord_encode (.jp nnn), _, rfl, zextAddr_toNat nnn, s.setPc_frame _⟩

/-- R25: the highest target of BNNN, 0xFFF + 0xFF, is a word, so the sum never wraps. -/
theorem zextAddr_add_zextByte_toNat (nnn : Addr12) (b : Byte) :
    (zextAddr nnn + zextByte b).toNat = nnn.toNat + b.toNat := by
  have := nnn.isLt
  have := b.isLt
  rw [BitVec.toNat_add, zextAddr_toNat, zextByte_toNat]
  omega

/-- Settles O24: the sum of 16 bits does not wrap. -/
theorem computedJumpAddsV0 : Obligations.ComputedJumpAddsV0 := by
  unfold Obligations.ComputedJumpAddsV0
  exact fun nnn s => ⟨decodeWord_encode (.jpV0 nnn), _, rfl, zextAddr_add_zextByte_toNat nnn _, s.setPc_frame _⟩

/-! ## Skips -/

/-- R86: a skip whose condition is `c`, for a case `p` in which it holds and a case `q` in which it does not. -/
theorem State.skipIf_effect {c : Bool} {p q : Prop} (hp : p → c = true) (hq : q → c = false) :
    (p → (s.skipIf c).pc = s.pc + 4) ∧ (q → (s.skipIf c).pc = s.pc + 2) ∧
      SameRegisters s (s.skipIf c) ∧ FrameBut [] s (s.skipIf c) :=
  ⟨fun h => by simp [hp h], fun h => by simp [hq h], s.setPc_frame _⟩

/-- Settles O22: 3XNN and 4XNN skip on equality and on its negation. -/
theorem immediateSkips : Obligations.ImmediateSkips := by
  unfold Obligations.ImmediateSkips
  intro x nn s
  refine ⟨decodeWord_encode (.seImm x nn), decodeWord_encode (.sneImm x nn), ?_, ?_⟩
  · exact ⟨_, rfl, s.skipIf_effect beq_iff_eq.mpr beq_eq_false_iff_ne.mpr⟩
  · exact ⟨_, rfl, s.skipIf_effect bne_iff_ne.mpr bne_eq_false_iff_eq.mpr⟩

/-- R90: classes 0x5 and 0x9 have the one selector N = 0. -/
theorem decodeWord_formatXYN_of_ne_zero {c n : Nibble} (hc : c = 0x5 ∨ c = 0x9) (x y : Nibble) (hn : n ≠ 0) :
    decodeWord (formatXYN c x y n) = .error (.invalidOpcode (formatXYN c x y n)) := by
  rcases hc with rfl | rfl <;> simpa [decodeWord] using hn

/-- Settles O23: 5XY0 and 9XY0 skip on equality and on its negation, and no other low nibble decodes. -/
theorem registerSkips : Obligations.RegisterSkips := by
  unfold Obligations.RegisterSkips
  intro x y s
  refine ⟨decodeWord_encode (.seReg x y), decodeWord_encode (.sneReg x y), fun n hn => ?_, ?_, ?_⟩
  · exact ⟨decodeWord_formatXYN_of_ne_zero (.inl rfl) x y hn, decodeWord_formatXYN_of_ne_zero (.inr rfl) x y hn⟩
  · exact ⟨_, rfl, s.skipIf_effect beq_iff_eq.mpr beq_eq_false_iff_ne.mpr⟩
  · exact ⟨_, rfl, s.skipIf_effect bne_iff_ne.mpr bne_eq_false_iff_eq.mpr⟩

end Sys2Proof.Machine
end

section
/-! PROOF of O25 to O30. An ALU instruction ends in `State.finishResult` or in `State.finishFlagged`; what V[X] and VF
then hold is a fact about bytes. -/

namespace Sys2Proof.Machine

/-! ## The flags in plain numbers -/

theorem flagByte_carryOut (a b : Byte) : flagByte (carryOut a b) = if 255 < a.toNat + b.toNat then 1 else 0 := by
  simp [flagByte, carryOut]

/-- R177: equality needs no borrow. -/
theorem flagByte_notBorrow (a b : Byte) : flagByte (notBorrow a b) = if a.toNat < b.toNat then 0 else 1 := by
  rw [← ite_not]
  simp [flagByte, notBorrow]

theorem flagByte_toNat (c : Bool) : (flagByte c).toNat = c.toNat := by
  cases c <;> rfl

theorem flagByte_shiftedOutRight_toNat (a : Byte) : (flagByte (shiftedOutRight a)).toNat = a.toNat % 2 := by
  rw [flagByte_toNat, shiftedOutRight, BitVec.getLsbD, Nat.toNat_testBit, pow_zero, Nat.div_one]

/-- R180: bit 7 is the top bit of a byte, so nothing stands above it. -/
theorem flagByte_shiftedOutLeft_toNat (a : Byte) : (flagByte (shiftedOutLeft a)).toNat = a.toNat / 128 := by
  have := a.isLt
  rw [flagByte_toNat, shiftedOutLeft, BitVec.getLsbD, Nat.toNat_testBit]
  omega

/-- R177, R179: a difference of bytes is the integers' difference modulo 256. -/
theorem byte_sub_toNat (a b : Byte) : ((a - b).toNat : Int) = ((a.toNat - b.toNat : Int)) % 2 ^ 8 := by
  have := b.isLt
  rw [BitVec.toNat_sub]
  omega

theorem byte_ushiftRight_one_toNat (a : Byte) : (a >>> 1).toNat = a.toNat / 2 := by
  rw [BitVec.toNat_ushiftRight, Nat.shiftRight_eq_div_pow, pow_one]

theorem byte_shiftLeft_one_toNat (a : Byte) : (a <<< 1).toNat = a.toNat * 2 % 2 ^ 8 := by
  rw [BitVec.toNat_shiftLeft, Nat.shiftLeft_eq, pow_one]

variable (s : State) (x : Nibble) (b : Byte) (c : Bool)

/-! ## The two ends of an ALU instruction -/

theorem State.finishResult_reg_self : (s.finishResult x b).reg x = b := by simp

theorem State.finishResult_frame : (s.finishResult x b).pc = s.pc + 2 ∧ SameRegistersBut [x] s (s.finishResult x b) ∧
    FrameBut [] s (s.finishResult x b) :=
  have h := (WritesWithin.refl [x] [] s).finishResult b
  ⟨rfl, h.registers, h.parts⟩

theorem State.finishFlagged_reg_self {x : Nibble} (hx : x ≠ 0xF) : (s.finishFlagged x b c).reg x = b := by
  rw [State.finishFlagged_reg, if_neg hx, if_pos rfl]

/-- R21, R185: the flag is written last, so it stands in VF whatever X is. -/
theorem State.finishFlagged_reg_flag : (s.finishFlagged x b c).reg 0xF = flagByte c := by simp

theorem State.finishFlagged_frame : (s.finishFlagged x b c).pc = s.pc + 2 ∧
    SameRegistersBut [x, 0xF] s (s.finishFlagged x b c) ∧ FrameBut [] s (s.finishFlagged x b c) :=
  have h := (WritesWithin.refl [x, 0xF] [] s).finishFlagged b c
  ⟨rfl, h.registers, h.parts⟩

/-! ## Instructions with no flag -/

/-- Settles O25: V[X] takes the immediate, or its sum with V[X]. -/
theorem immediateLoadAndAdd : Obligations.ImmediateLoadAndAdd := by
  unfold Obligations.ImmediateLoadAndAdd
  intro x nn s
  refine ⟨decodeWord_encode (.ldImm x nn), decodeWord_encode (.addImm x nn), ?_, ?_⟩
  · exact ⟨_, rfl, s.finishResult_reg_self x nn, s.finishResult_frame x nn⟩
  · refine ⟨_, rfl, ?_, s.finishResult_frame x _⟩
    rw [s.finishResult_reg_self, BitVec.toNat_add]

/-- Settles O26: each operation of words is the operation of their bits. -/
theorem copyAndLogicLeaveTheFlag : Obligations.CopyAndLogicLeaveTheFlag := by
  unfold Obligations.CopyAndLogicLeaveTheFlag
  intro x y s
  refine ⟨decodeWord_encode (.ldReg x y), decodeWord_encode (.orReg x y), decodeWord_encode (.andReg x y),
    decodeWord_encode (.xorReg x y), ?_, ?_, ?_, ?_⟩
  · exact ⟨_, rfl, s.finishResult_reg_self x _, s.finishResult_frame x _⟩
  · refine ⟨_, rfl, fun k _ => ?_, s.finishResult_frame x _⟩
    rw [s.finishResult_reg_self, BitVec.getLsbD_or]
  · refine ⟨_, rfl, fun k _ => ?_, s.finishResult_frame x _⟩
    rw [s.finishResult_reg_self, BitVec.getLsbD_and]
  · refine ⟨_, rfl, fun k _ => ?_, s.finishResult_frame x _⟩
    rw [s.finishResult_reg_self, BitVec.getLsbD_xor]

/-- R181: the draw moves the random index alone, and the rest of CXNN is a result with no flag. -/
theorem execRnd_effect (nn : Byte) : ∃ t, execRnd x nn s = .next t ∧ t.reg x = nn &&& Config.rng s.draws ∧
    t.draws = s.draws + 1 ∧ t.pc = s.pc + 2 ∧ SameRegistersBut [x] s t ∧ FrameBut [.randomIndex] s t :=
  have h := (WritesWithin.refl [x] [.randomIndex] s).drawRandom.finishResult (nn &&& Config.rng s.draws)
  ⟨_, rfl, State.finishResult_reg_self _ x _, rfl, rfl, h.registers, h.parts⟩

/-- Settles O30: the byte drawn is the one of the present count, and a bit that NN lacks is 0 whatever it is. -/
theorem randomIsMaskedByTheImmediate : Obligations.RandomIsMaskedByTheImmediate := by
  unfold Obligations.RandomIsMaskedByTheImmediate
  intro x nn s
  obtain ⟨t, he, hreg, hrest⟩ := execRnd_effect s x nn
  refine ⟨decodeWord_encode (.rnd x nn), t, he, ⟨_, rfl, hreg⟩, fun k _ hk => ?_, hrest⟩
  rw [hreg, BitVec.getLsbD_and, hk, Bool.false_and]

/-! ## Instructions that set VF -/

/-- Settles O27: the sum is V[X] and the carry VF, both of the operands before any write. -/
theorem addWritesSumThenCarry : Obligations.AddWritesSumThenCarry := by
  unfold Obligations.AddWritesSumThenCarry
  intro x y s
  refine ⟨decodeWord_encode (.addReg x y), _, rfl, fun hx => ?_, ?_, s.finishFlagged_frame x _ _⟩
  · rw [s.finishFlagged_reg_self _ _ hx, BitVec.toNat_add]
  · rw [s.finishFlagged_reg_flag, flagByte_carryOut]

/-- R177, R179: the end of a subtraction, whichever register holds which operand. -/
theorem State.finishFlagged_sub (a b : Byte) :
    (x ≠ 0xF → (((s.finishFlagged x (a - b) (notBorrow a b)).reg x).toNat : Int) = (a.toNat - b.toNat : Int) % 2 ^ 8) ∧
      (s.finishFlagged x (a - b) (notBorrow a b)).reg 0xF = if a.toNat < b.toNat then 0 else 1 :=
  ⟨fun hx => by rw [s.finishFlagged_reg_self _ _ hx, byte_sub_toNat],
    by rw [s.finishFlagged_reg_flag, flagByte_notBorrow]⟩

/-- Settles O28: 8XY5 and 8XY7 are one subtraction with the operands exchanged. -/
theorem subtractWritesDifferenceThenNotBorrow : Obligations.SubtractWritesDifferenceThenNotBorrow := by
  unfold Obligations.SubtractWritesDifferenceThenNotBorrow
  intro x y s
  obtain ⟨hsub, hsubFlag⟩ := s.finishFlagged_sub x (s.reg x) (s.reg y)
  obtain ⟨hsubn, hsubnFlag⟩ := s.finishFlagged_sub x (s.reg y) (s.reg x)
  refine ⟨decodeWord_encode (.subReg x y), decodeWord_encode (.subn x y), ?_, ?_⟩
  · exact ⟨_, rfl, hsub, hsubFlag, s.finishFlagged_frame x _ _⟩
  · exact ⟨_, rfl, hsubn, hsubnFlag, s.finishFlagged_frame x _ _⟩

/-- Settles O29: both the result and the bit shifted out are those of V[X]. -/
theorem shiftsMoveOneBitToTheFlag : Obligations.ShiftsMoveOneBitToTheFlag := by
  unfold Obligations.ShiftsMoveOneBitToTheFlag
  intro x y s
  refine ⟨decodeWord_encode (.shr x y), decodeWord_encode (.shl x y), ?_, ?_⟩
  · refine ⟨_, rfl, fun hx => ?_, ?_, s.finishFlagged_frame x _ _⟩
    · rw [s.finishFlagged_reg_self _ _ hx, byte_ushiftRight_one_toNat]
    · rw [s.finishFlagged_reg_flag, flagByte_shiftedOutRight_toNat]
  · refine ⟨_, rfl, fun hx => ?_, ?_, s.finishFlagged_frame x _ _⟩
    · rw [s.finishFlagged_reg_self _ _ hx, byte_shiftLeft_one_toNat]
    · rw [s.finishFlagged_reg_flag, flagByte_shiftedOutLeft_toNat]

end Sys2Proof.Machine
end

section
/-! PROOF of O34 to O37 and of O31 to O33. FX33 and FX55 both write some bytes from I up, FX65 reads the bytes there into
registers, and the other three write I alone, FX1E its flag as well. -/

namespace Sys2Proof.Machine

variable (s : State) (x : Nibble)

/-! ## The end of FX33 and FX55 -/

theorem State.byte_setBytes_getElem {a k : Nat} {bs : List Byte} (hk : k < bs.length) (ha : a + k ≤ 0xFFF) :
    (s.setBytes a bs).byte (a + k) = bs[k] := by
  rw [State.byte_setBytes, if_pos (by omega), Nat.add_sub_cancel_left, List.getD_eq_getElem]

theorem State.byte_setBytes_of_outside {a q : Nat} {bs : List Byte} (hq : q < a ∨ a + bs.length ≤ q) :
    (s.setBytes a bs).byte q = s.byte q := by
  rw [State.byte_setBytes, if_neg (by omega)]

/-- R206: a store of `n + 1` bytes leaves every byte outside them, the registers and every part but memory; `t` is the
state it ends in. -/
theorem State.setBytes_advance_frame {t : State} {a n : Nat} {bs : List Byte} (hn : bs.length = n + 1)
    (ht : t = (s.setBytes a bs).advance 2) :
    (∀ q, q < a ∨ a + n < q → t.byte q = s.byte q) ∧ t.pc = s.pc + 2 ∧ SameRegisters s t ∧ FrameBut [.memory] s t := by
  have h : WritesWithin [] [.memory] s t := ht ▸ ((WritesWithin.refl _ _ s).setBytes a bs).advance 2
  refine ⟨fun q hq => ?_, by simp [ht], h.sameRegisters, h.parts⟩
  rw [ht, State.advance_byte, s.byte_setBytes_of_outside (by omega)]

/-! ## FX33 -/

/-- R203: a digit fits a byte, so storing it loses nothing. -/
theorem map_toNat_bcdDigits (b : Byte) :
    (bcdDigits b).map BitVec.toNat = [b.toNat / 100, b.toNat / 10 % 10, b.toNat % 10] := by
  have := b.isLt
  simp only [bcdDigits, List.map_cons, List.map_nil, BitVec.toNat_ofNat, List.cons.injEq, and_true]
  omega

/-- R203: a store of the digits of `b` leaves them at `a`, `a + 1` and `a + 2`. -/
theorem State.byte_setBytes_bcdDigits (b : Byte) {a k : Nat} (hk : k < 3) (ha : a + k ≤ 0xFFF) :
    ((s.setBytes a (bcdDigits b)).byte (a + k)).toNat = [b.toNat / 100, b.toNat / 10 % 10, b.toNat % 10][k] := by
  have hlisted : k < (bcdDigits b).length := hk
  rw [s.byte_setBytes_getElem hlisted ha]
  simp only [← map_toNat_bcdDigits, List.getElem_map]

/-- Settles O34: the three bytes stored are the digits, and out of range FX33 stores none. -/
theorem bcdStoreWritesThreeDigits : Obligations.BcdStoreWritesThreeDigits := by
  unfold Obligations.BcdStoreWritesThreeDigits
  intro x s
  refine ⟨decodeWord_encode (.ldB x), ?_⟩
  rcases execLdB_cases x s with ⟨hin, he⟩ | ⟨hout, he⟩
  · refine ⟨fun _ => ⟨_, he, ?_⟩, fun hout => by omega⟩
    have hdigit (k : Nat) (hk : k < 3) := s.byte_setBytes_bcdDigits (s.reg x) (a := s.i.toNat) hk (by omega)
    exact ⟨hdigit 0 (by decide), hdigit 1 (by decide), hdigit 2 (by decide), s.setBytes_advance_frame rfl rfl⟩
  · exact ⟨fun hin => by omega, fun _ herr => he.trans (congrArg _ (State.raiseFrom_eq_raised herr _ _ _))⟩

/-! ## FX55 and FX65 -/

/-- R204: FX55 within memory stores V0 to V[X] and nothing else. -/
theorem execStoreRegs_effect (h : s.i.toNat + x.toNat ≤ 0xFFF) :
    ∃ t, execStoreRegs x s = .next t ∧ (∀ r : Nibble, r.toNat ≤ x.toNat → t.byte (s.i.toNat + r.toNat) = s.reg r) ∧
      (∀ a, a < s.i.toNat ∨ s.i.toNat + x.toNat < a → t.byte a = s.byte a) ∧
      t.pc = s.pc + 2 ∧ SameRegisters s t ∧ FrameBut [.memory] s t := by
  rcases execStoreRegs_cases x s with ⟨-, he⟩ | ⟨hout, -⟩
  · refine ⟨_, he, fun r hr => ?_, s.setBytes_advance_frame (by simp) rfl⟩
    simpa using (execStoreRegs_stores h he).2 r.toNat hr
  · omega

/-- R205: FX65 within memory loads V0 to V[X] and writes nothing else. -/
theorem execLoadRegs_effect (h : s.i.toNat + x.toNat ≤ 0xFFF) :
    ∃ t, execLoadRegs x s = .next t ∧ (∀ r : Nibble, r.toNat ≤ x.toNat → t.reg r = s.byte (s.i.toNat + r.toNat)) ∧
      (∀ r : Nibble, x.toNat < r.toNat → t.reg r = s.reg r) ∧ t.pc = s.pc + 2 ∧ FrameBut [] s t := by
  rcases execLoadRegs_cases x s with ⟨-, he⟩ | ⟨hout, -⟩
  · have hw := ((WritesWithin.refl (registersUpTo x) [] s).setRegs (s.bytes s.i.toNat (x.toNat + 1))).advance 2
    refine ⟨_, he, fun r hr => ?_, fun r hr => hw.registers r (by simp [mem_registersUpTo, hr]), by simp, hw.parts⟩
    rw [State.advance_reg, s.reg_setRegs_registersUpTo x r _ (by simp), if_pos hr, s.getD_bytes _ _ _ (by omega)]
  · omega

/-- Settles O35: within memory FX55 stores, and out of range it reports. -/
theorem registerDumpStoresV0ToVx : Obligations.RegisterDumpStoresV0ToVx := by
  unfold Obligations.RegisterDumpStoresV0ToVx
  intro x s
  refine ⟨decodeWord_encode (.storeRegs x), execStoreRegs_effect s x, fun hout herr => ?_⟩
  rcases execStoreRegs_cases x s with ⟨hin, -⟩ | ⟨-, he⟩
  · omega
  · exact he.trans (congrArg _ (State.raiseFrom_eq_raised herr _ _ _))

/-- Settles O36: within memory FX65 loads, and out of range it reports. -/
theorem registerLoadReadsV0ToVx : Obligations.RegisterLoadReadsV0ToVx := by
  unfold Obligations.RegisterLoadReadsV0ToVx
  intro x s
  refine ⟨decodeWord_encode (.loadRegs x), execLoadRegs_effect s x, fun hout herr => ?_⟩
  rcases execLoadRegs_cases x s with ⟨hin, -⟩ | ⟨-, he⟩
  · omega
  · exact he.trans (congrArg _ (State.raiseFrom_eq_raised herr _ _ _))

/-- Settles O37: FX55 leaves I, so FX65 reads the bytes that FX55 stored. -/
theorem dumpThenLoadRestoresRegisters : Obligations.DumpThenLoadRestoresRegisters := by
  unfold Obligations.DumpThenLoadRestoresRegisters
  intro x s t v h hst
  obtain ⟨t', hst', hstored, -, -, -, hparts⟩ := execStoreRegs_effect s x h
  obtain rfl := Host.Outcome.next.inj (hst'.symm.trans hst)
  have hi : t'.i = s.i := hparts .index (by decide)
  obtain ⟨u, hu, hloaded, -⟩ := execLoadRegs_effect { t' with v := v } x (hi ▸ h)
  refine ⟨u, hu, fun r hr => ?_⟩
  calc u.reg r = t'.byte (t'.i.toNat + r.toNat) := hloaded r hr
    _ = s.reg r := by rw [hi, hstored r hr]

/-! ## ANNN, FX1E and FX29 -/

/-- R206: an instruction that sets I and advances writes nothing else. -/
theorem State.setI_advance_frame (w : Word) : ((s.setI w).advance 2).pc = s.pc + 2 ∧
    SameRegisters s ((s.setI w).advance 2) ∧ FrameBut [.index] s ((s.setI w).advance 2) :=
  have h := ((WritesWithin.refl [] [.index] s).setI w).advance 2
  ⟨rfl, h.sameRegisters, h.parts⟩

/-- Settles O31: I takes NNN itself, of 12 bits. -/
theorem loadIndexSetsI : Obligations.LoadIndexSetsI := by
  unfold Obligations.LoadIndexSetsI
  exact fun nnn s => ⟨decodeWord_encode (.ldI nnn), _, rfl, zextAddr_toNat nnn, s.setI_advance_frame _⟩

theorem add_zextByte_toNat (i : Word) (b : Byte) : (i + zextByte b).toNat = (i.toNat + b.toNat) % 2 ^ 16 := by
  rw [BitVec.toNat_add, zextByte_toNat]

theorem flagByte_indexAboveMemory (i : Word) : flagByte (indexAboveMemory i) = if 0xFFF < i.toNat then 1 else 0 := by
  simp [flagByte, indexAboveMemory]

/-- Settles O32: the sum read by the range flag is the one I takes. -/
theorem addToIndexFlagsTheRange : Obligations.AddToIndexFlagsTheRange := by
  unfold Obligations.AddToIndexFlagsTheRange
  intro x s
  have hw : WritesWithin [0xF] [.index] s _ :=
    (((WritesWithin.refl _ _ s).setI (s.i + zextByte (s.reg x))).setReg (x := 0xF)
      (flagByte (indexAboveMemory (s.i + zextByte (s.reg x))))).advance 2
  refine ⟨decodeWord_encode (.addI x), _, rfl, add_zextByte_toNat s.i (s.reg x), ?_, rfl, hw.registers, hw.parts⟩
  rw [← add_zextByte_toNat, ← flagByte_indexAboveMemory]
  simp

/-- R202: the product, at most 255 * 5, is a word. -/
theorem zextByte_mul_five_toNat (b : Byte) : (zextByte b * 5).toNat = b.toNat * 5 := by
  have := b.isLt
  have h5 : (5 : Word).toNat = 5 := rfl
  rw [BitVec.toNat_mul, zextByte_toNat, h5]
  omega

/-- Settles O33: the product of 16 bits does not wrap. -/
theorem fontAddressIsFiveTimesVx : Obligations.FontAddressIsFiveTimesVx := by
  unfold Obligations.FontAddressIsFiveTimesVx
  exact fun x s => ⟨decodeWord_encode (.ldF x), _, rfl, zextByte_mul_five_toNat (s.reg x), s.setI_advance_frame _⟩

end Sys2Proof.Machine
end

section
/-! PROOF of O39, O40 and O41. EX9E and EXA1 read one key of the latch; FX0A writes WAIT alone; and what a machine that
awaits a key keeps, transaction by transaction, the run keeps. -/

namespace Sys2Proof.Machine

variable {s t u : State} {x k : Nibble}

/-! ## Skips on a key -/

theorem setWidth_four_of_toNat_eq {b : Byte} (h : b.toNat = k.toNat) : b.setWidth 4 = k := by
  apply BitVec.eq_of_toNat_eq
  rw [BitVec.toNat_setWidth, h, Nat.mod_eq_of_lt k.isLt]

theorem execSkp_of_key (h : (s.reg x).toNat = k.toNat) : execSkp x s = .next (s.skipIf (s.keyPressed k)) := by
  have := k.isLt
  rcases execSkp_cases x s with ⟨-, he⟩ | ⟨hout, -⟩
  · rw [he, setWidth_four_of_toNat_eq h]
  · omega

theorem execSknp_of_key (h : (s.reg x).toNat = k.toNat) : execSknp x s = .next (s.skipIf (!s.keyPressed k)) := by
  have := k.isLt
  rcases execSknp_cases x s with ⟨-, he⟩ | ⟨hout, -⟩
  · rw [he, setWidth_four_of_toNat_eq h]
  · omega

theorem execSkp_of_range (h : 0xF < (s.reg x).toNat) (herr : s.err = none) : execSkp x s =
    .next (raised s .keyIndexOutOfRange (some (encode (.skp x))) (some (s.reg x).toNat)) := by
  rcases execSkp_cases x s with ⟨hin, -⟩ | ⟨-, he⟩
  · omega
  · rw [he, State.raiseFrom_eq_raised herr]

theorem execSknp_of_range (h : 0xF < (s.reg x).toNat) (herr : s.err = none) : execSknp x s =
    .next (raised s .keyIndexOutOfRange (some (encode (.sknp x))) (some (s.reg x).toNat)) := by
  rcases execSknp_cases x s with ⟨hin, -⟩ | ⟨-, he⟩
  · omega
  · rw [he, State.raiseFrom_eq_raised herr]

/-- Settles O39: EX9E skips on the key's latch bit, EXA1 on its negation, and a value that names no key is reported. -/
theorem keySkipsReadTheLatch : Obligations.KeySkipsReadTheLatch := by
  unfold Obligations.KeySkipsReadTheLatch
  intro x s
  refine ⟨decodeWord_encode (.skp x), decodeWord_encode (.sknp x), fun k hk => ⟨?_, ?_⟩, fun hr herr => ⟨?_, ?_⟩⟩
  · exact ⟨_, execSkp_of_key hk, s.skipIf_effect id id⟩
  · exact ⟨_, execSknp_of_key hk, s.skipIf_effect (by simp) (by simp)⟩
  · exact execSkp_of_range hr herr
  · exact execSknp_of_range hr herr

/-! ## FX0A -/

/-- Settles O40: FX0A is the one write of WAIT, and the latch is not read. -/
theorem keyWaitSetsWaitOnly : Obligations.KeyWaitSetsWaitOnly := by
  unfold Obligations.KeyWaitSetsWaitOnly
  intro x s
  have hw := (WritesWithin.refl [] [.waitState] s).setWait (some x)
  exact ⟨decodeWord_encode (.ldVxK x), _, rfl, rfl, rfl, hw.sameRegisters, hw.parts⟩

/-! ## While a key is awaited -/

/-- From `s` to `t` the program stood still, HALT and WAIT are as they were, and `n` Ticks counted the timers down. -/
structure StandsStill (n : Nat) (s t : State) : Prop where
  halt : t.halt = s.halt
  wait : t.wait = s.wait
  pc : t.pc = s.pc
  registers : SameRegisters s t
  dt : t.dt.toNat = s.dt.toNat - n
  st : t.st.toNat = s.st.toNat - n

theorem StandsStill.refl (s : State) : StandsStill 0 s s := ⟨rfl, rfl, rfl, fun _ => rfl, rfl, rfl⟩

theorem StandsStill.trans {m n : Nat} (h : StandsStill m s t) (h' : StandsStill n t u) : StandsStill (m + n) s u where
  halt := h'.halt.trans h.halt
  wait := h'.wait.trans h.wait
  pc := h'.pc.trans h.pc
  registers r := (h'.registers r).trans (h.registers r)
  dt := by rw [h'.dt, h.dt, Nat.sub_sub]
  st := by rw [h'.st, h.st, Nat.sub_sub]

theorem countDown_toNat (b : Byte) : (countDown b).toNat = b.toNat - 1 := by
  unfold countDown
  split
  · next h => simp [h]
  · next h =>
    rw [BitVec.toNat_sub_of_le (by bv_omega)]
    rfl

theorem State.tick_standsStill (hh : s.halt = false) : StandsStill 1 s s.tick := by
  have ht : s.tick = (s.setDt (countDown s.dt)).setSt (countDown s.st) := by simp [State.tick, hh]
  rw [ht]
  exact ⟨rfl, rfl, rfl, fun _ => rfl, countDown_toNat s.dt, countDown_toNat s.st⟩

/-- R280: a Step while a key is awaited is idle. -/
theorem step_of_waiting (hw : s.wait = some x) : step s = .next s := by
  simp [step, hw]

/-- The transactions among which O41 says a wait goes on: Step, Tick, KeyUp and ClearRedraw. -/
def Transaction.KeepsWait (r : Transaction) : Prop :=
  r = .step ∨ r = .tick ∨ (∃ j, r = .keyUp j) ∨ r = .clearRedraw

theorem transact_standsStill {r : Transaction} (hr : r.KeepsWait) (hh : s.halt = false) (hw : s.wait = some x) :
    ∃ t, transact r s = .next t ∧ StandsStill ([r].count .tick) s t := by
  rcases hr with rfl | rfl | ⟨j, rfl⟩ | rfl
  · exact ⟨s, step_of_waiting hw, .refl s⟩
  · exact ⟨s.tick, rfl, State.tick_standsStill hh⟩
  · exact ⟨s.releaseKey j, rfl, rfl, rfl, rfl, fun _ => rfl, rfl, rfl⟩
  · exact ⟨s.clearRedraw, rfl, rfl, rfl, rfl, fun _ => rfl, rfl, rfl⟩

theorem transactAll_standsStill {rs : List Transaction} (hrs : ∀ r ∈ rs, r.KeepsWait) (hh : s.halt = false)
    (hw : s.wait = some x) : ∃ t, transactAll rs s = .next t ∧ StandsStill (rs.count .tick) s t := by
  induction rs generalizing s with
  | nil => exact ⟨s, rfl, .refl s⟩
  | cons r rs ih =>
    obtain ⟨hr, hrs⟩ := List.forall_mem_cons.mp hrs
    obtain ⟨t, hst, h⟩ := transact_standsStill hr hh hw
    obtain ⟨u, htu, h'⟩ := ih hrs (h.halt.trans hh) (h.wait.trans hw)
    have hcount : (r :: rs).count .tick = [r].count .tick + rs.count .tick := List.count_append (l₁ := [r])
    exact ⟨u, by rw [transactAll_cons_of_next hst, htu], hcount ▸ h.trans h'⟩

/-! ## The KeyDown that ends the wait -/

theorem State.pressKey_of_waiting (k : Nibble) (hh : s.halt = false) (hw : s.wait = some x) :
    s.pressKey k = (((s.setKey k true).setReg x (zextKey k)).advance 2).setWait none := by
  rcases s.pressKey_cases k with ⟨hidle, -⟩ | ⟨y, -, hy, he⟩
  · simp [hh, hw] at hidle
  · obtain rfl : x = y := by simpa [hw] using hy
    exact he

/-- R288: V[X] takes the key code; the latch and WAIT are no registers. -/
theorem State.pressKey_completes (k : Nibble) (hh : s.halt = false) (hw : s.wait = some x) :
    ((s.pressKey k).reg x).toNat = k.toNat ∧ (s.pressKey k).pc = s.pc + 2 ∧ (s.pressKey k).wait = none ∧
      SameRegistersBut [x] s (s.pressKey k) := by
  rw [State.pressKey_of_waiting k hh hw]
  refine ⟨by simp [zextKey_toNat], rfl, rfl, fun r hr => ?_⟩
  simp [List.ne_of_not_mem_cons hr]

/-- Settles O41, by induction on the transactions: each leaves the wait as it was, and the KeyDown then ends it. -/
theorem keyWaitBlocksUntilTheNextKeyDown : Obligations.KeyWaitBlocksUntilTheNextKeyDown := by
  unfold Obligations.KeyWaitBlocksUntilTheNextKeyDown
  intro ts x k s hts hh hw
  obtain ⟨t, hst, h⟩ := transactAll_standsStill hts hh hw
  have hwait := h.wait.trans hw
  obtain ⟨hreg, hpc, hdone, hkept⟩ := State.pressKey_completes k (h.halt.trans hh) hwait
  exact ⟨t, t.pressKey k, hst, hwait, h.pc, h.registers, h.dt, h.st, rfl, hreg, hpc.trans (by rw [h.pc]), hdone,
    fun r hr => (hkept r hr).trans (h.registers r)⟩

end Sys2Proof.Machine
end

section
/-! PROOF of O42. FX07 ends as an ALU instruction with no flag does; FX15 and FX18 write one timer and advance. -/

namespace Sys2Proof.Machine

variable (s : State) (b : Byte)

theorem State.setDt_advance_frame : ((s.setDt b).advance 2).pc = s.pc + 2 ∧
    SameRegisters s ((s.setDt b).advance 2) ∧ FrameBut [.delayTimer] s ((s.setDt b).advance 2) :=
  have h := ((WritesWithin.refl [] [.delayTimer] s).setDt b).advance 2
  ⟨rfl, h.sameRegisters, h.parts⟩

theorem State.setSt_advance_frame : ((s.setSt b).advance 2).pc = s.pc + 2 ∧
    SameRegisters s ((s.setSt b).advance 2) ∧ FrameBut [.soundTimer] s ((s.setSt b).advance 2) :=
  have h := ((WritesWithin.refl [] [.soundTimer] s).setSt b).advance 2
  ⟨rfl, h.sameRegisters, h.parts⟩

/-- Settles O42: FX07 writes V[X] alone, so DT stands when it is read; FX15 and FX18 write their timer alone. -/
theorem timerInstructionsCopy : Obligations.TimerInstructionsCopy := by
  unfold Obligations.TimerInstructionsCopy
  intro x s
  refine ⟨decodeWord_encode (.ldVxDt x), decodeWord_encode (.ldDtVx x), decodeWord_encode (.ldStVx x), ?_, ?_, ?_⟩
  · exact ⟨_, rfl, s.finishResult_reg_self x s.dt, s.finishResult_frame x s.dt⟩
  · exact ⟨_, rfl, rfl, s.setDt_advance_frame (s.reg x)⟩
  · exact ⟨_, rfl, rfl, s.setSt_advance_frame (s.reg x)⟩

end Sys2Proof.Machine
end

section
/-! PROOF of O9, O10, O13 and O14. Of an instruction its own check decides whether it raises; a Step that writes ERR has
failed at the fetch, at the decoder or at that check. -/

namespace Sys2Proof.Machine

variable {s t : State}

/-! ## An instruction by its own check -/

/-- R277: an instruction whose check fails raises, and does nothing else; one whose check passes completes, and writes
neither HALT nor ERR. The check is on SP for the stack, on the last address touched for memory, on V[X] for the keys. -/
theorem exec_cases (i : Instr) (s : State) :
    (∃ kind info, ownCheck i s = some (kind, info) ∧ exec i s = .next (s.raiseFrom i kind info)) ∨
    (ownCheck i s = none ∧ ∃ t, exec i s = .next t ∧ t.halt = s.halt ∧ t.err = s.err) := by
  cases i with
  | ret =>
    rcases execRet_cases s with ⟨h0, he⟩ | ⟨hpos, he⟩
    · exact .inl ⟨_, _, if_pos (State.sp_eq_neg_one_iff.mpr (congrArg Fin.val h0)), he⟩
    · exact .inr ⟨if_neg (by rw [State.sp_eq_neg_one_iff]; omega), _, he, rfl, rfl⟩
  | call nnn =>
    rcases execCall_cases nnn s with ⟨h16, he⟩ | ⟨hroom, he⟩
    · exact .inl ⟨_, _, if_pos (State.sp_eq_natCast_iff.mpr (congrArg Fin.val h16)), he⟩
    · exact .inr ⟨if_neg fun h => by have := State.sp_eq_natCast_iff (k := 15).mp h; omega, _, he, rfl, rfl⟩
  | drw x y n =>
    rcases execDrw_cases x y n s with ⟨hin, he⟩ | ⟨hn, hout, he⟩
    · exact .inr ⟨if_neg (by omega), _, he, rfl, rfl⟩
    · exact .inl ⟨_, _, if_pos (by omega), he⟩
  | ldB x =>
    rcases execLdB_cases x s with ⟨hin, he⟩ | ⟨hout, he⟩
    · exact .inr ⟨if_neg (by omega), _, he, by simp, by simp⟩
    · exact .inl ⟨_, _, if_pos (by omega), he⟩
  | storeRegs x =>
    rcases execStoreRegs_cases x s with ⟨hin, he⟩ | ⟨hout, he⟩
    · exact .inr ⟨if_neg (by omega), _, he, by simp, by simp⟩
    · exact .inl ⟨_, _, if_pos (by omega), he⟩
  | loadRegs x =>
    rcases execLoadRegs_cases x s with ⟨hin, he⟩ | ⟨hout, he⟩
    · exact .inr ⟨if_neg (by omega), _, he, by simp, by simp⟩
    · exact .inl ⟨_, _, if_pos (by omega), he⟩
  | skp x =>
    rcases execSkp_cases x s with ⟨hin, he⟩ | ⟨hout, he⟩
    · exact .inr ⟨if_neg (by omega), _, he, rfl, rfl⟩
    · exact .inl ⟨_, _, if_pos hout, he⟩
  | sknp x =>
    rcases execSknp_cases x s with ⟨hin, he⟩ | ⟨hout, he⟩
    · exact .inr ⟨if_neg (by omega), _, he, rfl, rfl⟩
    · exact .inl ⟨_, _, if_pos hout, he⟩
  | _ => exact .inr ⟨rfl, _, rfl, rfl, rfl⟩

/-- Settles O14: the two ways an instruction ends are those of its check. -/
theorem ownCheckDecidesTheError : Obligations.OwnCheckDecidesTheError := by
  unfold Obligations.OwnCheckDecidesTheError
  intro i s herr
  rcases exec_cases i s with ⟨kind, info, hfail, hx⟩ | ⟨hpass, t, hx, hhalt, hkept⟩
  · rw [State.raiseFrom_eq_raised herr] at hx
    simp [hfail, hx]
  · simp [hpass, hx, hhalt, hkept, herr]

/-! ## A Step -/

theorem step_of_idle (h : s.halt = true ∨ s.wait ≠ none) : step s = .next s := by
  rcases step_cases s with ⟨-, hs⟩ | ⟨hh, hw, -⟩
  · exact hs
  · simp [hh, hw] at h

/-- Settles O9: a halted or waiting machine does not fetch. -/
theorem haltedOrWaitingStepChangesNothing : Obligations.HaltedOrWaitingStepChangesNothing := by
  unfold Obligations.HaltedOrWaitingStepChangesNothing
  exact fun _ => step_of_idle

/-- Settles O10: a Step idles, raises or executes an instruction, and every instruction completes or raises. -/
theorem everyStepAnswersNext : Obligations.EveryStepAnswersNext := by
  unfold Obligations.EveryStepAnswersNext
  intro s
  rcases step_cases s with ⟨-, hs⟩ | ⟨-, -, ⟨a, -, hs⟩ | ⟨op, -, ⟨e, -, hs⟩ | ⟨i, -, hs⟩⟩⟩
  · exact ⟨_, hs⟩
  · exact ⟨_, hs⟩
  · exact ⟨_, hs⟩
  · rw [hs]
    rcases exec_cases i s with ⟨_, _, -, hx⟩ | ⟨-, t, hx, -⟩
    · exact ⟨_, hx⟩
    · exact ⟨t, hx⟩

/-! ## The report of a Step -/

/-- R271: only a first error writes ERR. -/
theorem State.raise_eq_raised_of_err_ne {kind : ErrKind} {opcode : Option Word} {info : Option Nat}
    (h : (s.raise kind opcode info).err ≠ s.err) :
    s.err = none ∧ s.raise kind opcode info = raised s kind opcode info := by
  cases herr : s.err with
  | none => exact ⟨rfl, State.raise_eq_raised herr _ _ _⟩
  | some e => simp [State.raise_err, herr] at h

theorem State.fetch_eq_error {a : Nat} (h : s.fetch = .error a) : 0xFFE < s.pc.toNat ∧ a = max s.pc.toNat 0x1000 := by
  by_cases hpc : s.pc.toNat ≤ 0xFFE
  · simp [s.fetch_ok hpc] at h
  · rw [s.fetch_error (by omega)] at h
    exact ⟨by omega, (Except.error.inj h).symm⟩

theorem wellFormedWord_of_decodeWord_error {op : Word} {e : DecodeError} (h : decodeWord op = .error e) :
    wellFormedWord op = false := by
  rcases decodeWord_cases op with ⟨i, hd, -⟩ | ⟨-, hinvalid⟩
  · simp [hd] at h
  · rwa [← wellFormedWord_iff, Bool.not_eq_true] at hinvalid

/-- Settles O13: of the ways a Step goes three raise, each at the check that fails first; an idle Step and an
instruction whose check passes leave ERR. -/
theorem fatalErrorsArePreciseAndClassified : Obligations.FatalErrorsArePreciseAndClassified := by
  unfold Obligations.FatalErrorsArePreciseAndClassified
  intro s t hst herr
  rcases step_cases s with ⟨-, hs⟩ | ⟨-, -, ⟨a, hf, hs⟩ | ⟨op, hf, ⟨e, hd, hs⟩ | ⟨i, hd, hs⟩⟩⟩
  · obtain rfl := Host.Outcome.next.inj (hs.symm.trans hst)
    exact absurd rfl herr
  · obtain rfl := Host.Outcome.next.inj (hs.symm.trans hst)
    obtain ⟨hnone, hraised⟩ := State.raise_eq_raised_of_err_ne herr
    obtain ⟨hpc, rfl⟩ := State.fetch_eq_error hf
    exact ⟨hnone, .inl ⟨hpc, hraised⟩⟩
  · obtain rfl := Host.Outcome.next.inj (hs.symm.trans hst)
    obtain ⟨hnone, hraised⟩ := State.raise_eq_raised_of_err_ne herr
    exact ⟨hnone, .inr (.inl ⟨op, hf, wellFormedWord_of_decodeWord_error hd, hraised⟩)⟩
  · rcases exec_cases i s with ⟨kind, info, hfail, hx⟩ | ⟨-, u, hx, -, hkept⟩
    · obtain rfl := Host.Outcome.next.inj ((hs.trans hx).symm.trans hst)
      obtain ⟨hnone, hraised⟩ := State.raise_eq_raised_of_err_ne herr
      obtain rfl := encodeOfDecodedWordIsThatWord op i hd
      exact ⟨hnone, .inr (.inr ⟨encode i, i, kind, info, hf, hd, hfail, hraised⟩)⟩
    · obtain rfl := Host.Outcome.next.inj ((hs.trans hx).symm.trans hst)
      exact absurd hkept herr

end Sys2Proof.Machine
end

section
/-! PROOF of O43 to O47. A transaction that stores nothing in memory writes the latch, the timers, REDRAW or HALT, and
KeyDown also completes the FX0A a running machine awaits. -/

namespace Sys2Proof.Machine

variable {s t u : State}

/-! ## Writes of the host -/

/-- Between `s` and `t` the host wrote the parts `ps`; PC and the general registers are as they were. -/
structure HostWrites (ps : List Part) (s t : State) : Prop where
  pc : t.pc = s.pc
  registers : SameRegisters s t
  parts : FrameBut ps s t

namespace HostWrites

variable {ps qs : List Part}

theorem refl (ps : List Part) (s : State) : HostWrites ps s s :=
  ⟨rfl, fun _ => rfl, frameBut_refl ps s⟩

theorem trans (h : HostWrites ps s t) (h' : HostWrites ps t u) : HostWrites ps s u where
  pc := h'.pc.trans h.pc
  registers r := (h'.registers r).trans (h.registers r)
  parts := frameBut_trans h.parts h'.parts

theorem mono (hm : ∀ p ∈ ps, p ∈ qs) (h : HostWrites ps s t) : HostWrites qs s t :=
  ⟨h.pc, h.registers, frameBut_mono hm h.parts⟩

end HostWrites

/-- What is written within no register and at the PC it had is a host's write. -/
theorem WritesWithin.hostWrites {ps : List Part} (h : WritesWithin [] ps s t) (hpc : t.pc = s.pc) :
    HostWrites ps s t :=
  ⟨hpc, h.sameRegisters, h.parts⟩

theorem samePart_setKey {p : Part} (s : State) (hp : .keypad ≠ p) (k : Nibble) (b : Bool) :
    SamePart p s (s.setKey k b) := by
  cases p with
  | keypad => exact absurd rfl hp
  | _ => simp [SamePart]

theorem WritesWithin.setKey {xs : List Nibble} {ps : List Part} (h : WritesWithin xs ps s t) (k : Nibble) (b : Bool)
    (hp : .keypad ∈ ps := by simp) : WritesWithin xs ps s (t.setKey k b) :=
  h.trans ⟨fun _ _ => rfl, fun _ hn => samePart_setKey t (ne_of_mem_of_not_mem hp hn) k b, id⟩

theorem State.setKey_hostWrites (s : State) (k : Nibble) (b : Bool) : HostWrites [.keypad] s (s.setKey k b) :=
  ((WritesWithin.refl [] [.keypad] s).setKey k b).hostWrites rfl

theorem State.setHalt_hostWrites (s : State) (b : Bool) : HostWrites [.haltFlag] s (s.setHalt b) :=
  ((WritesWithin.refl [] [.haltFlag] s).setHalt b).hostWrites rfl

/-- R294: the host clears REDRAW, which no instruction does. -/
theorem State.setRedraw_hostWrites (s : State) (b : Bool) : HostWrites [.redrawFlag] s (s.setRedraw b) :=
  ⟨rfl, fun _ => rfl, fun _ hn => samePart_setRedraw s (ne_of_mem_of_not_mem List.mem_cons_self hn) b⟩

theorem State.setTimers_hostWrites (s : State) (b c : Byte) :
    HostWrites [.delayTimer, .soundTimer] s ((s.setDt b).setSt c) :=
  (((WritesWithin.refl [] [.delayTimer, .soundTimer] s).setDt b).setSt c).hostWrites rfl

/-! ## Tick -/

theorem State.tick_of_halted (h : s.halt = true) : s.tick = s := if_pos h

theorem State.tick_of_running (h : s.halt = false) : s.tick = (s.setDt (countDown s.dt)).setSt (countDown s.st) :=
  if_neg (by simp [h])

/-- Settles O43: both counts truncate at 0, whatever WAIT is, and a halted machine does not count. -/
theorem tickCountsDownToZero : Obligations.TickCountsDownToZero := by
  unfold Obligations.TickCountsDownToZero
  refine fun s => ⟨fun hh => ⟨s.tick, rfl, ?_⟩, fun hh => congrArg Host.Outcome.next (State.tick_of_halted hh)⟩
  rw [State.tick_of_running hh]
  have hw := s.setTimers_hostWrites (countDown s.dt) (countDown s.st)
  exact ⟨countDown_toNat s.dt, countDown_toNat s.st, hw.pc, hw.registers, hw.parts⟩

/-! ## Keys -/

theorem State.pressKey_of_idle (k : Nibble) (h : s.halt = true ∨ s.wait = none) : s.pressKey k = s.setKey k true := by
  rcases s.pressKey_cases k with ⟨-, he⟩ | ⟨x, hh, hw, -⟩
  · exact he
  · simp [hh, hw] at h

/-- R288: the latch takes the key whether or not an FX0A completes. -/
theorem State.pressKey_keyPressed (s : State) (k j : Nibble) :
    (s.pressKey k).keyPressed j = if j = k then true else s.keyPressed j := by
  rcases s.pressKey_cases k with ⟨-, he⟩ | ⟨x, -, -, he⟩ <;> simp [he]

theorem State.pressKey_frame {x : Nibble} (k : Nibble) (hh : s.halt = false) (hw : s.wait = some x) :
    FrameBut [.keypad, .waitState] s (s.pressKey k) := by
  rw [State.pressKey_of_waiting k hh hw]
  have h := WritesWithin.refl [x] [.keypad, .waitState] s
  exact ((((h.setKey k true).setReg (zextKey k) (by simp)).advance 2).setWait none).parts

/-- Settles O44: what a pending FX0A adds to the latch bit is its completion. -/
theorem keyDownSetsTheLatchAndCompletesTheWait : Obligations.KeyDownSetsTheLatchAndCompletesTheWait := by
  unfold Obligations.KeyDownSetsTheLatchAndCompletesTheWait
  intro k s
  refine ⟨s.pressKey k, rfl, ?_, fun j hj => ?_, fun x hh hw => ?_, fun hidle => ?_⟩
  · rw [s.pressKey_keyPressed, if_pos rfl]
  · rw [s.pressKey_keyPressed, if_neg hj]
  · obtain ⟨hreg, hpc, hwait, hregs⟩ := State.pressKey_completes k hh hw
    exact ⟨hreg, hpc, hwait, hregs, State.pressKey_frame k hh hw⟩
  · rw [State.pressKey_of_idle k hidle]
    have hw := s.setKey_hostWrites k true
    exact ⟨hw.pc, hw.registers, hw.parts⟩

/-- Settles O45: KeyUp is one write of the latch. -/
theorem keyUpClearsTheLatchBitOnly : Obligations.KeyUpClearsTheLatchBitOnly := by
  unfold Obligations.KeyUpClearsTheLatchBitOnly
  intro k s
  have hw := s.setKey_hostWrites k false
  refine ⟨s.releaseKey k, rfl, ?_, fun j hj => ?_, hw.pc, hw.registers, hw.parts⟩
  · rw [State.releaseKey, s.keyPressed_setKey, if_pos rfl]
  · rw [State.releaseKey, s.keyPressed_setKey, if_neg hj]

/-! ## REDRAW and HALT -/

/-- Settles O46: ClearRedraw is one write of REDRAW. -/
theorem clearRedrawClearsTheFlagOnly : Obligations.ClearRedrawClearsTheFlagOnly := by
  unfold Obligations.ClearRedrawClearsTheFlagOnly
  intro s
  have hw := s.setRedraw_hostWrites false
  exact ⟨s.clearRedraw, rfl, rfl, hw.pc, hw.registers, hw.parts⟩

/-- Settles O47: HaltRequest is one write of HALT, so a pending FX0A keeps its PC and WAIT. -/
theorem haltRequestSetsHaltOnly : Obligations.HaltRequestSetsHaltOnly := by
  unfold Obligations.HaltRequestSetsHaltOnly
  intro s
  have hw := s.setHalt_hostWrites true
  exact ⟨s.haltRequest, rfl, rfl, hw.pc, hw.registers, hw.parts⟩

end Sys2Proof.Machine
end

section
/-! PROOF of O50. A halted machine takes from the host only a load, the latch and REDRAW, so HALT stays along every run
without Reset. -/

namespace Sys2Proof.Machine

variable {s t : State}

theorem State.haltRequest_of_halted (h : s.halt = true) : s.haltRequest = s := by
  cases s
  cases h
  rfl

/-- R318: a load writes memory or nothing. -/
theorem State.loadProgram_hostWrites (s : State) (bytes : List Byte) :
    HostWrites [.memory] s (s.loadProgram bytes).2 := by
  unfold State.loadProgram
  split
  · exact .refl _ s
  · exact ((WritesWithin.refl [] [.memory] s).setBytes 0x200 bytes).hostWrites (s.setBytes_pc 0x200 bytes)

/-- The parts a transaction other than Reset may write while the machine is halted (R280, R285, R288 to R290, R294,
R318). -/
def Transaction.haltedWrites : Transaction → List Part
  | .loadProgram _ => [.memory]
  | .keyDown _ | .keyUp _ => [.keypad]
  | .clearRedraw => [.redrawFlag]
  | .reset | .step | .tick | .haltRequest => []

theorem transact_of_halted {x : Transaction} (hx : x ≠ .reset) (hh : s.halt = true) :
    ∃ t, transact x s = .next t ∧ HostWrites x.haltedWrites s t := by
  cases x with
  | reset => exact absurd rfl hx
  | loadProgram bytes => exact ⟨_, rfl, s.loadProgram_hostWrites bytes⟩
  | step => exact ⟨s, step_of_idle (.inl hh), .refl _ s⟩
  | tick => exact ⟨s, congrArg Host.Outcome.next (State.tick_of_halted hh), .refl _ s⟩
  | keyDown k =>
    exact ⟨_, congrArg Host.Outcome.next (State.pressKey_of_idle k (.inl hh)), s.setKey_hostWrites k true⟩
  | keyUp k => exact ⟨_, rfl, s.setKey_hostWrites k false⟩
  | haltRequest => exact ⟨s, congrArg Host.Outcome.next (State.haltRequest_of_halted hh), .refl _ s⟩
  | clearRedraw => exact ⟨_, rfl, s.setRedraw_hostWrites false⟩

/-- A halted machine is halted after any transaction other than Reset. -/
theorem HostWrites.halt_kept {x : Transaction} (h : HostWrites x.haltedWrites s t) : t.halt = s.halt :=
  h.parts .haltFlag (by cases x <;> simp [Transaction.haltedWrites])

theorem transactAll_of_halted {xs : List Transaction} (hxs : .reset ∉ xs) (hh : s.halt = true) :
    ∃ t, transactAll xs s = .next t ∧ HostWrites (xs.flatMap Transaction.haltedWrites) s t := by
  induction xs generalizing s with
  | nil => exact ⟨s, rfl, .refl _ s⟩
  | cons x xs ih =>
    have hx : x ≠ .reset := (List.ne_of_not_mem_cons hxs).symm
    have hxs : .reset ∉ xs := List.not_mem_of_not_mem_cons hxs
    obtain ⟨t, hst, h⟩ := transact_of_halted hx hh
    obtain ⟨u, htu, h'⟩ := ih hxs (h.halt_kept.trans hh)
    refine ⟨u, by rw [transactAll_cons_of_next hst, htu], ?_⟩
    rw [List.flatMap_cons]
    exact (h.mono fun _ => List.mem_append_left _).trans (h'.mono fun _ => List.mem_append_right _)

theorem haltedWrites_subset (x : Transaction) : ∀ p ∈ x.haltedWrites, p ∈ [.memory, .keypad, .redrawFlag] := by
  cases x <;> simp [Transaction.haltedWrites]

theorem haltedWrites_subset_of_no_load {x : Transaction} (hx : ∀ bytes, x ≠ .loadProgram bytes) :
    ∀ p ∈ x.haltedWrites, p ∈ [.keypad, .redrawFlag] := by
  cases x with
  | loadProgram bytes => exact absurd rfl (hx bytes)
  | _ => simp [Transaction.haltedWrites]

/-- Settles O50: the parts a run writes are those its transactions write, and memory is among them for a load alone. -/
theorem haltIsTerminalUntilReset : Obligations.HaltIsTerminalUntilReset := by
  unfold Obligations.HaltIsTerminalUntilReset
  intro xs s hh hxs
  obtain ⟨t, hst, h⟩ := transactAll_of_halted hxs hh
  refine ⟨t, hst, h.pc, h.registers, frameBut_mono (fun p hp => ?_) h.parts,
    fun hload => frameBut_mono (fun p hp => ?_) h.parts⟩
  · obtain ⟨x, -, hp⟩ := List.mem_flatMap.mp hp
    exact haltedWrites_subset x p hp
  · obtain ⟨x, hx, hp⟩ := List.mem_flatMap.mp hp
    exact haltedWrites_subset_of_no_load (fun bytes he => hload bytes (he ▸ hx)) p hp

end Sys2Proof.Machine
end

section
/-! PROOF of O56. HALT and WAIT are the power state: a transaction that writes neither keeps it, and each of the others
moves it as R300 says. -/

namespace Sys2Proof.Machine

variable {s t : State}

/-! ## The power states by HALT and WAIT -/

theorem State.power_of_halt (h : s.halt = true) : s.power = .halted := by
  simp [State.power, h]

theorem State.power_of_wait {x : Nibble} (hh : s.halt = false) (hw : s.wait = some x) : s.power = .awaitingKey x := by
  simp [State.power, hh, hw]

theorem State.power_of_running (hh : s.halt = false) (hw : s.wait = none) : s.power = .running := by
  simp [State.power, hh, hw]

theorem State.power_congr (hh : t.halt = s.halt) (hw : t.wait = s.wait) : t.power = s.power := by
  simp [State.power, hh, hw]

/-! ## How a transaction moves between them -/

/-- R300: what a transaction from `s` to `t` can do to the power state. -/
inductive PowerMove (s t : State) : Transaction → Prop where
  | kept {x : Transaction} (h : t.power = s.power) : PowerMove s t x
  | awaits {op : Word} {r : Nibble} (hs : s.power = .running) (hf : s.fetch = .ok op)
      (hd : decodeWord op = .ok (.ldVxK r)) (ht : t.power = .awaitingKey r) : PowerMove s t .step
  | faults (hs : s.power = .running) (ht : t.power = .halted) (he : t.err ≠ none) : PowerMove s t .step
  | requested (ht : t.power = .halted) : PowerMove s t .haltRequest
  | completes {k r : Nibble} (hs : s.power = .awaitingKey r) (ht : t.power = .running) : PowerMove s t (.keyDown k)
  | resets (ht : t.power = .running) : PowerMove s t .reset

theorem waitState_notMem_partWrites {i : Instr} (hi : ∀ r, i ≠ .ldVxK r) : .waitState ∉ partWrites i := by
  cases i with
  | ldVxK r => exact absurd rfl (hi r)
  | _ => simp [partWrites]

/-- R35: FX0A alone writes WAIT. -/
theorem exec_wait {i : Instr} (hi : ∀ r, i ≠ .ldVxK r) (hx : exec i s = .next t) : t.wait = s.wait := by
  obtain ⟨u, hu, hw⟩ := exec_writesWithin i s
  obtain rfl := Host.Outcome.next.inj (hu.symm.trans hx)
  exact hw.parts .waitState (waitState_notMem_partWrites hi)

theorem State.raise_powerMove (hs : s.power = .running) (kind : ErrKind) (opcode : Option Word) (info : Option Nat) :
    PowerMove s (s.raise kind opcode info) .step :=
  .faults hs (State.power_of_halt rfl) (by simp [State.raise_err])

theorem exec_powerMove {op : Word} {i : Instr} (hh : s.halt = false) (hw : s.wait = none) (hf : s.fetch = .ok op)
    (hd : decodeWord op = .ok i) : ∃ t, exec i s = .next t ∧ PowerMove s t .step := by
  have hs := State.power_of_running hh hw
  by_cases hi : ∃ r, i = .ldVxK r
  · obtain ⟨r, rfl⟩ := hi
    exact ⟨_, rfl, .awaits hs hf hd (State.power_of_wait hh rfl)⟩
  · rcases exec_cases i s with ⟨kind, info, -, hx⟩ | ⟨-, t, hx, hhalt, -⟩
    · exact ⟨_, hx, State.raise_powerMove hs _ _ _⟩
    · exact ⟨t, hx, .kept (State.power_congr hhalt (exec_wait (not_exists.mp hi) hx))⟩

theorem step_powerMove (s : State) : ∃ t, step s = .next t ∧ PowerMove s t .step := by
  rcases step_cases s with ⟨-, hs⟩ | ⟨hh, hw, ⟨a, -, hs⟩ | ⟨op, hf, ⟨e, -, hs⟩ | ⟨i, hd, hs⟩⟩⟩
  · exact ⟨s, hs, .kept rfl⟩
  · exact ⟨_, hs, State.raise_powerMove (State.power_of_running hh hw) _ _ _⟩
  · exact ⟨_, hs, State.raise_powerMove (State.power_of_running hh hw) _ _ _⟩
  · rw [hs]
    exact exec_powerMove hh hw hf hd

theorem State.pressKey_powerMove (s : State) (k : Nibble) : PowerMove s (s.pressKey k) (.keyDown k) := by
  rcases s.pressKey_cases k with ⟨-, he⟩ | ⟨r, hh, hw, he⟩
  · rw [he]
    exact .kept rfl
  · rw [he]
    exact .completes (State.power_of_wait hh hw) (State.power_of_running hh rfl)

theorem HostWrites.power_eq {ps : List Part} (h : HostWrites ps s t) (hh : .haltFlag ∉ ps := by simp)
    (hw : .waitState ∉ ps := by simp) : t.power = s.power :=
  State.power_congr (h.parts .haltFlag hh) (h.parts .waitState hw)

theorem State.tick_power (s : State) : s.tick.power = s.power := by
  cases hh : s.halt with
  | true => rw [State.tick_of_halted hh]
  | false =>
    rw [State.tick_of_running hh]
    exact (s.setTimers_hostWrites _ _).power_eq

theorem transact_powerMove (x : Transaction) (s : State) : ∃ t, transact x s = .next t ∧ PowerMove s t x := by
  cases x with
  | reset => exact ⟨_, rfl, .resets rfl⟩
  | loadProgram bytes => exact ⟨_, rfl, .kept (s.loadProgram_hostWrites bytes).power_eq⟩
  | step => exact step_powerMove s
  | tick => exact ⟨_, rfl, .kept s.tick_power⟩
  | keyDown k => exact ⟨_, rfl, s.pressKey_powerMove k⟩
  | keyUp k => exact ⟨_, rfl, .kept (s.setKey_hostWrites k false).power_eq⟩
  | haltRequest => exact ⟨_, rfl, .requested (State.power_of_halt rfl)⟩
  | clearRedraw => exact ⟨_, rfl, .kept (s.setRedraw_hostWrites false).power_eq⟩

/-- Settles O56: the moves of R300, each held against the state it leaves. -/
theorem powerStatesChangeOnlyAsListed : Obligations.PowerStatesChangeOnlyAsListed := by
  unfold Obligations.PowerStatesChangeOnlyAsListed
  intro x s t hst hne
  obtain ⟨u, hsu, hmove⟩ := transact_powerMove x s
  obtain rfl := Host.Outcome.next.inj (hsu.symm.trans hst)
  cases hmove with
  | kept h => exact absurd h hne
  | awaits hs hf hd ht => simp [hs, hf, hd, ht]
  | faults hs ht he => simp [hs, ht, he]
  | requested ht =>
    have hs : s.power ≠ .halted := fun h => hne (ht.trans h.symm)
    simp [hs, ht]
  | completes hs ht => simp [hs, ht]
  | resets ht =>
    have hs : s.power ≠ .running := fun h => hne (ht.trans h.symm)
    simp [hs, ht]

end Sys2Proof.Machine
end

section
/-! PROOF of O48. A load that fits is one store of its bytes from 0x200, which ends within memory; a longer one is no
store at all. -/

namespace Sys2Proof.Machine

variable {bytes : List Byte}

theorem State.loadProgram_of_fits (s : State) (h : bytes.length ≤ 0xE00) :
    s.loadProgram bytes = (.ok, s.setBytes 0x200 bytes) :=
  if_neg (Nat.not_lt.mpr h)

theorem State.loadProgram_of_tooLong (s : State) (h : 0xE00 < bytes.length) : s.loadProgram bytes = (.loadError, s) :=
  if_pos h

theorem transact_loadProgram_of_eq {s t : State} {r : LoadResult} (h : s.loadProgram bytes = (r, t)) :
    transact (.loadProgram bytes) s = .next t :=
  congrArg (fun p : LoadResult × State => Host.Outcome.next p.2) h

/-- R316: no byte of a program that fits falls beyond 0xFFF, so each is in memory after the load. -/
theorem State.byte_setBytes_program (s : State) (h : bytes.length ≤ 0xE00) {k : Nat} (hk : k < bytes.length) :
    (s.setBytes 0x200 bytes).byte (0x200 + k) = bytes.getD k 0 := by
  have hmem : 0x200 + k ≤ 0xFFF := by omega
  rw [s.byte_setBytes_getElem hk hmem, List.getD_eq_getElem]

/-- Settles O48: both clauses hold in every state, as LoadProgram looks at the length of the program alone. -/
theorem loadProgramCopiesOrRefuses : Obligations.LoadProgramCopiesOrRefuses := by
  unfold Obligations.LoadProgramCopiesOrRefuses
  refine fun bytes s => ⟨fun hfits => ?_, fun hlong => ?_⟩
  · have hload := s.loadProgram_of_fits hfits
    have hw : HostWrites [.memory] s (s.setBytes 0x200 bytes) := by
      simpa only [hload] using s.loadProgram_hostWrites bytes
    exact ⟨congrArg Prod.fst hload, _, transact_loadProgram_of_eq hload, fun k hk => s.byte_setBytes_program hfits hk,
      fun a ha => s.byte_setBytes_of_outside ha, hw.pc, hw.registers, hw.parts⟩
  · have hload := s.loadProgram_of_tooLong hlong
    exact ⟨hload, transact_loadProgram_of_eq hload⟩

end Sys2Proof.Machine
end
